-- ==== Sys2Proof/Word.lean ====
section
/-! DEFINITION. The word types of the block (spec/00_scope.md R9): a byte is 8 bits, a nibble a 4-bit half of one. -/

namespace Sys2Proof

/-- A payload byte, bit 7 the most significant (R9). -/
abbrev Byte := BitVec 8

/-- A "4-bit half of a byte" (R9). -/
abbrev Nibble := BitVec 4

/-- The 32-bit length of the First Frame escape form and of the response (R25, R76). -/
abbrev Word32 := BitVec 32

end Sys2Proof
end

