-- ==== Sys2Proof/Config.lean ====
section
/-! DEFINITION. The build-time parameters that shape the block's request and its timing (spec/00_scope.md R7). The numeric
literals the parsers check against are named constants of Machine/Params.lean. -/

namespace Sys2Proof.Config

/-- `MAX_PAYLOAD`, the largest payload size in bytes a request can carry (R7, R24). -/
abbrev MAX_PAYLOAD : Nat := 64

/-- `ID_WIDTH`, the width of the request's identifier field (R7, R21). -/
abbrev ID_WIDTH : Nat := 29

/-- `DECODE_LATENCY`, OPEN (R7, R242): some finite number of cycles, of which nothing is known and on which no rule
depends. It has no body, so nothing can be proved of its value (log 1). -/
opaque DECODE_LATENCY : Nat

end Sys2Proof.Config
end

