-- ==== Sys2Proof/Machine/Params.lean ====
section
/-! DEFINITION. The numeric literals the rules check against, each as ONE named constant (spec/00_scope.md R7,
spec/93_implementation_defined.md I9: the source's literals are unaudited, so a correction touches one definition; log 9). -/

namespace Sys2Proof.Machine.Params

/-- `CLASSIC_MAX_PAYLOAD`: the largest classic-CAN payload; no parser checks it (R7, R22). -/
abbrev CLASSIC_MAX_PAYLOAD : Nat := 8

/-- `SHORT_FRAME_CEILING`: "the configured short-frame ceiling (8)" of the FF bound rule (R141). -/
abbrev SHORT_FRAME_CEILING : Nat := 8

/-- `FF_EXT_OFFSET_ADJ`: bytes added to the FF data offset under extended addressing, 0 for this hardware (R7, R145,
decision D9); the other value a model may take is 1. -/
abbrev FF_EXT_OFFSET_ADJ : Nat := 0

/-- `SF_SHORT_MAX` (R121). -/
abbrev SF_SHORT_MAX : Nat := 7

/-- `SF_EXT_FORBIDDEN_SHORT` (R121). -/
abbrev SF_EXT_FORBIDDEN_SHORT : Nat := 7

/-- `SF_ESC_MIN` (R122). -/
abbrev SF_ESC_MIN : Nat := 6

/-- `SF_STD_FORBIDDEN_ESC` (R122). -/
abbrev SF_STD_FORBIDDEN_ESC : Nat := 7

/-- `FF_MIN_STD` (R141). -/
abbrev FF_MIN_STD : Nat := 8

/-- `FF_MIN_EXT` (R141). -/
abbrev FF_MIN_EXT : Nat := 7

/-- `FC_SIZE`: the one payload size of a Flow Control frame (R171). -/
abbrev FC_SIZE : Nat := 3

/-- The greatest legal Flow Control flag, Overflow (R78, R172). -/
abbrev FC_FLAG_MAX : Nat := 2

/-- `ST_MS_MAX` (R173). -/
abbrev ST_MS_MAX : Nat := 0x7F

/-- `ST_US_LO` (R173). -/
abbrev ST_US_LO : Nat := 0xF1

/-- `ST_US_HI` (R173). -/
abbrev ST_US_HI : Nat := 0xF9

/-- The 0xF0 that R173 takes from a separation-time byte of the microsecond range. -/
abbrev ST_US_BASE : Nat := 0xF0

/-- Bytes an SF escape header holds (R80). -/
abbrev SF_ESC_HEADER : Nat := 2

/-- Bytes an FF short header holds (R80, R145). -/
abbrev FF_SHORT_HEADER : Nat := 2

/-- Bytes an FF escape header holds (R80, R145); no header is longer (R70). -/
abbrev FF_ESC_HEADER : Nat := 6

/-- The CF data offset: its single header byte (R161). -/
abbrev CF_HEADER : Nat := 1

end Sys2Proof.Machine.Params
end

