-- ==== Sys2Proof/Syntax.lean ====
section
/-! DEFINITION. The header forms of spec/30_encoding.md as syntax: one constructor per row of spec/opcode_table.json, and the
closed enumeration of the four frame types. -/

namespace Sys2Proof

/-- The four ISO-TP frame types (R102, R104): Single Frame, First Frame, Consecutive Frame, Flow Control. -/
inductive FrameType where
  | sf
  | ff
  | cf
  | fc
  deriving DecidableEq, Repr

/-- One frame header. An operand is an Option where the payload may end before the byte that holds it: `none` says that the
payload has no such byte (the table's "S<2 raises TruncatedHeader"; log 6). -/
inductive Instr where
  /-- SF_SHORT (R121): byte 0 = `0000 LLLL`, `len` = LLLL, not 0. -/
  | sfShort (len : Nibble)
  /-- SF_ESC (R122): byte 0 = 0x00, `len` = byte 1. -/
  | sfEsc (len : Option Byte)
  /-- FF_SHORT (R143): byte 0 = `0001 HHHH`, `hi` = HHHH, `lo` = byte 1, `hi ++ lo` not 0. With `lo` = none it is any First
  Frame of one byte, whose form is never selected (R142). -/
  | ffShort (hi : Nibble) (lo : Option Byte)
  /-- FF_ESC (R144): byte 0 = 0x10, byte 1 = 0x00, `len` = bytes 2 to 5, big-endian. -/
  | ffEsc (len : Option Word32)
  /-- CF (R161): byte 0 = `0010 NNNN`, `seq` = NNNN. -/
  | cf (seq : Nibble)
  /-- FC (R171): byte 0 = `0011 FFFF`, `flag` = FFFF, `bs` = byte 1, `st` = byte 2. -/
  | fc (flag : Nibble) (bs : Option Byte) (st : Option Byte)
  /-- INVALID_TYPE_4_7 (R102): byte 0 = `01xx xxxx`, `x` the ignored bits. -/
  | invalidType47 (x : BitVec 6)
  /-- INVALID_TYPE_8_F (R102): byte 0 = `1xxx xxxx`, `x` the ignored bits. -/
  | invalidType8F (x : BitVec 7)
  deriving DecidableEq, Repr

end Sys2Proof
end

