-- ==== Sys2Proof/Machine/Operands.lean ====
section
/-! DEFINITION. The bit-field utility, the classifier and every field computation of the header forms (spec/30_encoding.md §2,
spec/40_classify_dispatch.md §1 and §2, R141, R145, R173). Sizes and lengths are natural numbers (R11). -/

namespace Sys2Proof.Machine

open Params

/-- NIBBLE, the bit-field utility (R100): the two nibbles of a byte, high nibble first. -/
def nib (b : Byte) : Nibble × Nibble :=
  (b.extractLsb' 4 4, b.extractLsb' 0 4)

/-- CLASSIFY (R102): the frame type of a PCI byte; `none` for the type nibbles 4 to 15. The low nibble is not read. -/
def classify (b : Byte) : Option FrameType :=
  match (nib b).1.toNat with
  | 0 => some .sf
  | 1 => some .ff
  | 2 => some .cf
  | 3 => some .fc
  | _ => none

/-- The 12-bit FF length `P(0)[3:0] ++ P(1)` (R75). -/
def f12 (n : Nibble) (b1 : Byte) : BitVec 12 :=
  n ++ b1

/-- The FF escape length `P(2) ++ P(3) ++ P(4) ++ P(5)`, big-endian (R76). -/
def word32 (b2 b3 b4 b5 : Byte) : Word32 :=
  b2 ++ b3 ++ b4 ++ b5

/-- The separation time of an STmin byte in microseconds; `none` for the bytes that raise InvalidSeparationTime
(R77, R173; the unit is the spec's decision D12). -/
def stMicros (st : Byte) : Option Nat :=
  let v := st.toNat
  if v ≤ ST_MS_MAX then some (v * 1000)
  else if ST_US_LO ≤ v ∧ v ≤ ST_US_HI then some ((v - ST_US_BASE) * 100)
  else none

/-- The minimum FF length bound `min_len(S, ext)` (R141). -/
def minLen (S : Nat) (ext : Bool) : Nat :=
  if S > SHORT_FRAME_CEILING then
    if ext then S - 2 else S - 1
  else
    if ext then FF_MIN_EXT else FF_MIN_STD

/-- The FF data offset (R145): the header size consumed, plus the adjustment `adj` under extended addressing. -/
def ffOffset (adj base : Nat) (ext : Bool) : Nat :=
  base + if ext then adj else 0

end Sys2Proof.Machine
end

