-- ==== Sys2Proof/WellFormed.lean ====
section
/-! DEFINITION. Which terms of Instr are headers some payload starts with: the constraints of the rows of
spec/opcode_table.json, and that a byte is absent only where every later byte is. -/

namespace Sys2Proof

/-- The constraint of each row: SF_SHORT's "byte0[3:0] != 0", FF_SHORT's "(byte0[3:0] ++ byte1) != 0" (R79), and an FC that
holds byte 2 holds byte 1. Every other term is the header of some payload. -/
def Instr.wf : Instr → Bool
  | .sfShort len => len != 0
  | .sfEsc _ => true
  | .ffShort _ none => true
  | .ffShort hi (some lo) => !(hi == 0 && lo == 0)
  | .ffEsc _ => true
  | .cf _ => true
  | .fc _ bs st => bs.isSome || st.isNone
  | .invalidType47 _ => true
  | .invalidType8F _ => true

end Sys2Proof
end

