-- ==== Sys2Proof/Decode.lean ====
section
/-! DEFINITION. From payload bytes to a header and back (spec/30_encoding.md §1, §3): the decoder, total on any bytes, the
encoder, and the decoder on a word of spec/opcode_table.json. -/

namespace Sys2Proof

open Machine

/-- Why bytes are no header. -/
inductive DecodeReject where
  /-- There is no byte 0 to classify; a payload is never empty (R24). -/
  | emptyPayload
  deriving DecidableEq, Repr

/-- SF (R120): the form is chosen by the low nibble of byte 0 alone; a short form never reads byte 1. -/
def decodeSf (n : Nibble) (rest : List Byte) : Instr × List Byte :=
  if n = 0 then
    match rest with
    | [] => (.sfEsc none, [])
    | b1 :: d => (.sfEsc (some b1), d)
  else (.sfShort n, rest)

/-- FF escape (R144): bytes 2 to 5 as one big-endian word; without all four, the length is absent. -/
def decodeFfEsc (rest : List Byte) : Instr × List Byte :=
  match rest with
  | b2 :: b3 :: b4 :: b5 :: d => (.ffEsc (some (word32 b2 b3 b4 b5)), d)
  | d => (.ffEsc none, d)

/-- FF (R142): the form is chosen by the whole 12-bit field; without byte 1 none is selected (log 6). -/
def decodeFf (n : Nibble) (rest : List Byte) : Instr × List Byte :=
  match rest with
  | [] => (.ffShort n none, [])
  | b1 :: d => if f12 n b1 = 0 then decodeFfEsc d else (.ffShort n (some b1), d)

/-- FC (R74): the flag is the low nibble, the block size byte 1, the separation time byte 2. -/
def decodeFc (n : Nibble) (rest : List Byte) : Instr × List Byte :=
  match rest with
  | [] => (.fc n none none, [])
  | [b1] => (.fc n (some b1) none, [])
  | b1 :: b2 :: d => (.fc n (some b1) (some b2), d)

/-- The two rows of type nibbles 4 to 15 (R79, R102). -/
def decodeInvalid (b : Byte) (rest : List Byte) : Instr × List Byte :=
  if b.getLsbD 7 then (.invalidType8F (b.extractLsb' 0 7), rest)
  else (.invalidType47 (b.extractLsb' 0 6), rest)

/-- The header a payload starts with, and the bytes after it (R79, R103: the type nibble first, then the form). The class is
matched with no wildcard (R104). -/
def decode : List Byte → Except DecodeReject (Instr × List Byte)
  | [] => .error .emptyPayload
  | b :: rest =>
    match classify b with
    | some .sf => .ok (decodeSf (nib b).2 rest)
    | some .ff => .ok (decodeFf (nib b).2 rest)
    | some .cf => .ok (.cf (nib b).2, rest)
    | some .fc => .ok (decodeFc (nib b).2 rest)
    | none => .ok (decodeInvalid b rest)

/-- The byte of an operand, or no byte where the payload ends before it. -/
def encodeByte (b : Option Byte) : List Byte :=
  match b with
  | none => []
  | some v => [v]

/-- The four bytes of an FF escape length, the most significant first (R76). -/
def encodeWord32 (w : Option Word32) : List Byte :=
  match w with
  | none => []
  | some v => [v.extractLsb' 24 8, v.extractLsb' 16 8, v.extractLsb' 8 8, v.extractLsb' 0 8]

/-- The header bytes of an instruction, from the layouts of R72 to R74 and the table's rows. -/
def encode : Instr → List Byte
  | .sfShort len => [0x0#4 ++ len]
  | .sfEsc len => 0x00 :: encodeByte len
  | .ffShort hi lo => (0x1#4 ++ hi) :: encodeByte lo
  | .ffEsc len => 0x10 :: 0x00 :: encodeWord32 len
  | .cf seq => [0x2#4 ++ seq]
  | .fc flag bs st => (0x3#4 ++ flag) :: (encodeByte bs ++ encodeByte st)
  | .invalidType47 x => [0x1#2 ++ x]
  | .invalidType8F x => [0x1#1 ++ x]

/-- Byte k of a word that spec/opcode_table.json numbers from bit 0. The rows of whole 16-bit words (SF_ESC, FF_SHORT,
FF_ESC) are numbered "bytes 0..1 big-endian": the byte at the lower index is the upper half of its 16-bit word. The rows of
8 and 24 bits number byte 0 first (log 5). -/
def tableByte (nbits w k : Nat) : Byte :=
  if nbits % 16 = 0 then BitVec.ofNat 8 (w % 2 ^ nbits / 2 ^ (16 * (k / 2) + 8 * (1 - k % 2)))
  else BitVec.ofNat 8 (w % 2 ^ nbits / 2 ^ (8 * k))

/-- The six bytes of the longest header, the word's bits first and zeros above `nbits`. -/
def tableBytes (nbits w : Nat) : List Byte :=
  (List.range 6).map (tableByte nbits w)

/-- The instruction the decoder reads from a word of spec/opcode_table.json. -/
def decodeTableWord (nbits w : Nat) : Option Instr :=
  match decode (tableBytes nbits w) with
  | .ok (i, _) => some i
  | .error _ => none

end Sys2Proof
end

