-- ==== Sys2Proof/Machine/State.lean ====
section
/-! DEFINITION. The whole state of the block (spec/10_state.md R20): the request it is given, the response record `pdu` and
its presence bit, and the state after reset (spec/70_reset_and_hazards.md R230). -/

namespace Sys2Proof.Machine

/-- The payload bytes as (index, byte) pairs, in the one canonical form that `Memory.wf` says. -/
abbrev Memory := List Host.Cell

/-- What an index no pair lists reads as: 0x00 (log 3). -/
def unlistedByte : Byte := 0

/-- The canonical form from index `lo` on: indices strictly rising and below `MAX_PAYLOAD`, no pair equal to what an unlisted
index reads as. -/
def Memory.wfFrom (lo : Nat) : Memory → Bool
  | [] => true
  | (a, b) :: m => decide (lo ≤ a) && decide (a < Config.MAX_PAYLOAD) && decide (b ≠ unlistedByte) && Memory.wfFrom (a + 1) m

/-- The payload is in canonical form. -/
def Memory.wf (m : Memory) : Bool :=
  Memory.wfFrom 0 m

/-- The request, one CanMessage (R21). -/
structure Request where
  /-- CAN identifier; not read by the block (R22). -/
  id : BitVec Config.ID_WIDTH
  /-- Addressing mode: false standard, true extended. -/
  ext : Bool
  /-- FD flag; not read by the block (R22). -/
  fd : Bool
  /-- Payload size S in bytes, 1 to 64 admitted (R24). -/
  size : BitVec 7
  /-- The payload bytes; those at index S and above are not part of the message. -/
  payload : Memory
  deriving DecidableEq, Repr

/-- S, the payload size as a number (R12). -/
def Request.S (r : Request) : Nat :=
  r.size.toNat

/-- The request is inside the block's contract (R24). -/
abbrev Request.Admitted (r : Request) : Prop :=
  1 ≤ r.S ∧ r.S ≤ Config.MAX_PAYLOAD

/-- The response record `pdu`, field for field and width for width as R25 lays it out; the valid bits are Bools. -/
structure Pdu where
  /-- Error code, 0 = OK (R201). -/
  err : BitVec 3
  ftypeV : Bool
  /-- 0 SF, 1 FF, 2 CF, 3 FC (R71). -/
  ftype : BitVec 2
  lenV : Bool
  /-- Declared payload length. -/
  len : BitVec 32
  offV : Bool
  /-- Index of the first data byte. -/
  off : BitVec 7
  /-- Number of data bytes. -/
  dlen : BitVec 7
  seqV : Bool
  /-- CF sequence index. -/
  seq : BitVec 4
  fcV : Bool
  /-- 0 Continue, 1 Wait, 2 Overflow (R78). -/
  fcFlag : BitVec 2
  /-- FC block size, 0 = unlimited. -/
  bs : BitVec 8
  /-- FC separation time in microseconds (R77). -/
  stUs : BitVec 17
  deriving DecidableEq, Repr

/-- Every field at its unset sentinel, valid bit 0 and value 0 (R26), and `err` 0: the record after reset (R230). -/
def Pdu.unset : Pdu where
  err := 0
  ftypeV := false
  ftype := 0
  lenV := false
  len := 0
  offV := false
  off := 0
  dlen := 0
  seqV := false
  seq := 0
  fcV := false
  fcFlag := 0
  bs := 0
  stUs := 0

/-- The errors a transaction can report (R201); OK is no error and has no constructor. -/
inductive PduError where
  | invalidFrameType
  | truncatedHeader
  | invalidLength
  | lengthTooSmall
  | invalidFlowControlFlag
  | invalidSeparationTime
  deriving DecidableEq, Repr

/-- Where a model stops instead of inventing a value. -/
inductive Fault where
  /-- A payload byte that the request does not hold is read (R51: "A model must fault, not return a value"). Raised by
  readByte and by a meaning whose operand is absent although its size check passed; no step reaches it. Safe. -/
  | readBeyondPayload
  deriving DecidableEq, Repr

/-- What the model gives no meaning. -/
inductive Refusal where
  /-- An instruction whose arm of exec has no meaning yet. Raised by exec's arms alone; no arm is left so. Safe. -/
  | notModelled (mnemonic : String)
  /-- The request's size is 0 or above `MAX_PAYLOAD`: no response is defined (R24, R206). Raised by step before anything is
  read, and by every meaning. Safe (log 10). -/
  | sizeOutOfContract
  deriving DecidableEq, Repr

structure State where
  /-- The request, supplied and held by the requester (R20); the block never writes it (R23). -/
  req : Request
  /-- The response record (R25). -/
  pdu : Pdu
  /-- `pdu` holds the response of a completed transaction (R30). -/
  pduValid : Bool
  deriving DecidableEq, Repr

/-- The outcome of a meaning. -/
abbrev Result := Host.Outcome State Fault Refusal

/-- Right after reset (R230): no response, every field of the record 0. The request is not reset (R231); its lines are
taken as all 0 (DESIGN CHOICE, log 2). -/
def State.reset : State where
  req := { id := 0, ext := false, fd := false, size := 0, payload := [] }
  pdu := Pdu.unset
  pduValid := false

end Sys2Proof.Machine
end

