-- ==== Sys2Proof/Machine/Flags.lean ====
section
/-! DEFINITION. The valid bits and `err`, the only flags of the block (spec/10_state.md R34): the codes they carry and the
records of a success and of an error (R26 to R28, R106, R203). -/

namespace Sys2Proof

/-- The frame-type code, equal to the PCI type nibble (R71). -/
def FrameType.code : FrameType → BitVec 2
  | .sf => 0
  | .ff => 1
  | .cf => 2
  | .fc => 3

namespace Machine

/-- The code of OK (R201). -/
def okCode : BitVec 3 := 0

/-- The error codes (R201); 7 is reserved and no error has it (R202). -/
def PduError.code : PduError → BitVec 3
  | .invalidFrameType => 1
  | .truncatedHeader => 2
  | .invalidLength => 3
  | .lengthTooSmall => 4
  | .invalidFlowControlFlag => 5
  | .invalidSeparationTime => 6

/-- The error record (R203): `err`, the frame type when classification had succeeded, and every other field at its
sentinel (R28). -/
def errorRecord (cls : Option FrameType) (e : PduError) : Pdu :=
  match cls with
  | none => { Pdu.unset with err := e.code }
  | some t => { Pdu.unset with err := e.code, ftypeV := true, ftype := t.code }

/-- The success record of a class before its own fields (R106). -/
def okRecord (cls : FrameType) : Pdu :=
  { Pdu.unset with err := okCode, ftypeV := true, ftype := cls.code }

/-- `len` and its valid bit (R26). -/
def Pdu.setLen (p : Pdu) (n : Nat) : Pdu :=
  { p with lenV := true, len := BitVec.ofNat 32 n }

/-- `off` and `dlen` and the valid bit they share (R26); the slice runs to the end of the payload (R55). -/
def Pdu.setSlice (p : Pdu) (off dlen : Nat) : Pdu :=
  { p with offV := true, off := BitVec.ofNat 7 off, dlen := BitVec.ofNat 7 dlen }

/-- `seq` and its valid bit (R26). -/
def Pdu.setSeq (p : Pdu) (n : Nibble) : Pdu :=
  { p with seqV := true, seq := n }

/-- `fc_flag`, `bs` and `st_us` and the valid bit they share (R26). -/
def Pdu.setFlow (p : Pdu) (flag bs st : Nat) : Pdu :=
  { p with fcV := true, fcFlag := BitVec.ofNat 2 flag, bs := BitVec.ofNat 8 bs, stUs := BitVec.ofNat 17 st }

end Machine

end Sys2Proof
end

