-- ==== Sys2Proof/Machine/Ops.lean ====
section
/-! DEFINITION. The named operations over the payload and the record: one-byte reads (spec/20_memory.md R51), the bytes a header
is decoded from, the requester's writes of the payload, and the two endings of a transaction (R106, R107, R203). -/

namespace Sys2Proof.Machine

/-- The byte at an index of the 64-byte payload. -/
def Memory.read : Memory → Nat → Byte
  | [], _ => unlistedByte
  | (a, b) :: m, i => if a = i then b else Memory.read m i

/-- Put the pair of a byte in front of later ones, or leave it out where an unlisted index reads the same. -/
def Memory.put (i : Nat) (v : Byte) (m : Memory) : Memory :=
  if v = unlistedByte then m else (i, v) :: m

/-- Set the byte at an index below `MAX_PAYLOAD`, keeping the canonical form. Only the requester writes a payload (R53). -/
def Memory.write : Memory → Nat → Byte → Memory
  | [], i, v => Memory.put i v []
  | (a, b) :: m, i, v =>
    if i < a then Memory.put i v ((a, b) :: m)
    else if i = a then Memory.put i v m
    else (a, b) :: Memory.write m i v

/-- Set the bytes from an index on, dropping those that would stand at `MAX_PAYLOAD` or above, which no payload has
(log 12). -/
def Memory.writeBytes (m : Memory) (i : Nat) : List Byte → Memory
  | [] => m
  | v :: vs => if i < Config.MAX_PAYLOAD then Memory.writeBytes (Memory.write m i v) (i + 1) vs else m

/-- `P(i)` = `MemRead(i, 1)` (R51): defined for `i < S`, and a fault otherwise. A payload has no byte at `MAX_PAYLOAD` or
above whatever S says (R50). -/
def readByte (r : Request) (i : Nat) : Except Fault Byte :=
  if i < r.S ∧ i < Config.MAX_PAYLOAD then .ok (r.payload.read i) else .error .readBeyondPayload

/-- `n` one-byte reads from index `i` on, in rising order (R52). -/
def readBytes (r : Request) (i : Nat) : Nat → Except Fault (List Byte)
  | 0 => .ok []
  | n + 1 =>
    match readByte r i with
    | .error f => .error f
    | .ok b =>
      match readBytes r (i + 1) n with
      | .error f => .error f
      | .ok bs => .ok (b :: bs)

/-- The bytes the decoder is given: those of the payload that the longest header can cover (R70; log 7). -/
def fetchHeader (r : Request) : Except Fault (List Byte) :=
  readBytes r 0 (min r.S Params.FF_ESC_HEADER)

/-- The end of a transaction (R107): the record built replaces all of `pdu` at once and `pdu_valid` becomes 1. A request
outside the contract gets no response (R24, R206; log 8). -/
def respond (r : Pdu) (s : State) : Result :=
  if s.req.Admitted then .next { s with pdu := r, pduValid := true } else .refused .sizeOutOfContract

/-- `raise E` (R203), the block's taking of an exception: the transaction ends with the error record. `cls` is the frame type
where classification had succeeded. There is no return from it and nothing to restore (R208, R209). -/
def raise (cls : Option FrameType) (e : PduError) (s : State) : Result :=
  respond (errorRecord cls e) s

/-- Go on with an operand, which the payload must hold: reading a byte it does not hold is a fault (R51; log 6). -/
def withOperand {α : Type} (o : Option α) (k : α → Result) : Result :=
  match o with
  | none => .fault .readBeyondPayload
  | some v => k v

/-- Lay a header's bytes at the start of the request's payload and give the request the size of a whole frame: 3 for Flow
Control (R171), a classic frame of 8 otherwise (log 4). -/
def Request.withHeader (r : Request) (isFc : Bool) (bytes : List Byte) : Request :=
  { r with
    size := BitVec.ofNat 7 (if isFc then Params.FC_SIZE else Params.CLASSIC_MAX_PAYLOAD)
    payload := r.payload.writeBytes 0 bytes }

end Sys2Proof.Machine
end

