-- ==== Sys2Proof/Machine/ConsecutiveFrame.lean ====
section
/-! DEFINITION. The Consecutive Frame parser (spec/43_consecutive_frame.md): CF. -/

namespace Sys2Proof.Machine

open Params

/-- CF (R161): it reads neither `ext` nor any byte but byte 0 (R160), leaves `len` unset (R162) and checks the sequence index
against nothing (R163). -/
def execCf (seq : Nibble) (s : State) : Result :=
  respond (((okRecord .cf).setSeq seq).setSlice CF_HEADER (s.req.S - CF_HEADER)) s

end Sys2Proof.Machine
end

