-- ==== Sys2Proof/Machine/FirstFrame.lean ====
section
/-! DEFINITION. The First Frame parser (spec/42_first_frame.md): FF_SHORT and FF_ESC. Both are written over the size `adj` of
the addressing-mode adjustment of the data offset, and take `FF_EXT_OFFSET_ADJ` for it (R145, decision D9). -/

namespace Sys2Proof.Machine

open Params

/-- The FF success record (R143, R144): the slice runs from the offset to the end of the payload (R145). -/
def ffRecord (S off L : Nat) : Pdu :=
  ((okRecord .ff).setLen L).setSlice off (S - off)

/-- What follows the length in both forms: the offset (R145), then the length check (R146). -/
def ffFinish (adj base L : Nat) (s : State) : Result :=
  let off := ffOffset adj base s.req.ext
  if off > s.req.S then raise (some .ff) .truncatedHeader s
  else if L < minLen s.req.S s.req.ext then raise (some .ff) .lengthTooSmall s
  else respond (ffRecord s.req.S off L) s

/-- The FF short form over `adj` (R140, R143). -/
def ffShortWith (adj : Nat) (hi : Nibble) (lo : Option Byte) (s : State) : Result :=
  if s.req.S < FF_SHORT_HEADER then raise (some .ff) .truncatedHeader s
  else withOperand lo fun b1 => ffFinish adj FF_SHORT_HEADER (f12 hi b1).toNat s

/-- The FF escape form over `adj` (R140, R144). -/
def ffEscWith (adj : Nat) (len : Option Word32) (s : State) : Result :=
  if s.req.S < FF_SHORT_HEADER then raise (some .ff) .truncatedHeader s
  else if s.req.S < FF_ESC_HEADER then raise (some .ff) .truncatedHeader s
  else withOperand len fun w => ffFinish adj FF_ESC_HEADER w.toNat s

/-- FF_SHORT (R143). -/
def execFfShort (hi : Nibble) (lo : Option Byte) (s : State) : Result :=
  ffShortWith FF_EXT_OFFSET_ADJ hi lo s

/-- FF_ESC (R144). -/
def execFfEsc (len : Option Word32) (s : State) : Result :=
  ffEscWith FF_EXT_OFFSET_ADJ len s

end Sys2Proof.Machine
end

