-- ==== Sys2Proof/Machine/FlowControl.lean ====
section
/-! DEFINITION. The Flow Control parser (spec/44_flow_control.md): FC. -/

namespace Sys2Proof.Machine

open Params

/-- FC (R170, R171): the size, then the flag (R172), then the separation time (R173); the block size is passed through
(R174) and no length, offset or data is set (R175). -/
def execFc (flag : Nibble) (bs st : Option Byte) (s : State) : Result :=
  if s.req.S ≠ FC_SIZE then raise (some .fc) .invalidLength s
  else if flag.toNat > FC_FLAG_MAX then raise (some .fc) .invalidFlowControlFlag s
  else withOperand bs fun b => withOperand st fun v =>
    match stMicros v with
    | none => raise (some .fc) .invalidSeparationTime s
    | some us => respond ((okRecord .fc).setFlow flag.toNat b.toNat us) s

end Sys2Proof.Machine
end

