-- ==== Sys2Proof/Machine/InvalidType.lean ====
section
/-! DEFINITION. The two rows of byte-0 values whose type nibble is no frame type (spec/40_classify_dispatch.md R102): the
ignored bits `x` change nothing. -/

namespace Sys2Proof.Machine

/-- INVALID_TYPE_4_7 (R102): InvalidFrameType, the type left unset. -/
def execInvalidType47 (_x : BitVec 6) (s : State) : Result :=
  raise none .invalidFrameType s

/-- INVALID_TYPE_8_F (R102): InvalidFrameType, the type left unset. -/
def execInvalidType8F (_x : BitVec 7) (s : State) : Result :=
  raise none .invalidFrameType s

end Sys2Proof.Machine
end

