-- ==== Sys2Proof/Machine/SingleFrame.lean ====
section
/-! DEFINITION. The Single Frame parser (spec/41_single_frame.md): SF_SHORT and SF_ESC. -/

namespace Sys2Proof.Machine

open Params

/-- The success record of both SF forms: the data is the trailing L bytes, at offset `S - L` (R123). -/
def sfRecord (S L : Nat) : Pdu :=
  ((okRecord .sf).setLen L).setSlice (S - L) L

/-- SF_SHORT (R121). -/
def execSfShort (len : Nibble) (s : State) : Result :=
  let L := len.toNat
  if L > SF_SHORT_MAX then raise (some .sf) .invalidLength s
  else if L + 1 > s.req.S then raise (some .sf) .invalidLength s
  else if s.req.ext = true ∧ L = SF_EXT_FORBIDDEN_SHORT then raise (some .sf) .invalidLength s
  else respond (sfRecord s.req.S L) s

/-- SF_ESC (R122). -/
def execSfEsc (len : Option Byte) (s : State) : Result :=
  if s.req.S < SF_ESC_HEADER then raise (some .sf) .truncatedHeader s
  else withOperand len fun b =>
    let L := b.toNat
    if L < SF_ESC_MIN then raise (some .sf) .invalidLength s
    else if s.req.ext = false ∧ L = SF_STD_FORBIDDEN_ESC then raise (some .sf) .invalidLength s
    else if L + 2 > s.req.S then raise (some .sf) .invalidLength s
    else respond (sfRecord s.req.S L) s

end Sys2Proof.Machine
end

