-- ==== Sys2Proof/Machine/Dispatch.lean ====
section
/-! DEFINITION. One arm per row of spec/opcode_table.json: the parser a decoded header selects (spec R103, R104). -/

namespace Sys2Proof.Machine

def exec (i : Instr) (s : State) : Host.Outcome State Fault Refusal :=
  match i with
  | .sfShort len => Sys2Proof.Machine.execSfShort len s
  | .sfEsc len => Sys2Proof.Machine.execSfEsc len s
  | .ffShort hi lo => Sys2Proof.Machine.execFfShort hi lo s
  | .ffEsc len => Sys2Proof.Machine.execFfEsc len s
  | .cf seq => Sys2Proof.Machine.execCf seq s
  | .fc flag bs st => Sys2Proof.Machine.execFc flag bs st s
  | .invalidType47 x => Sys2Proof.Machine.execInvalidType47 x s
  | .invalidType8F x => Sys2Proof.Machine.execInvalidType8F x s

end Sys2Proof.Machine
end

