-- ==== Sys2Proof/Machine/Step.lean ====
section
/-! DEFINITION. One step is one whole transaction on the request the requester presents (spec/40_classify_dispatch.md R103,
decision D1). -/

namespace Sys2Proof.Machine

/-- DECODE (R103): refuse a size outside the contract (R24), else decode the header and run it. -/
def step (s : State) : Host.Outcome State Fault Refusal :=
  if s.req.Admitted then
    match fetchHeader s.req with
    | .error f => .fault f
    | .ok bytes =>
      match decode bytes with
      | .error .emptyPayload => .refused .sizeOutOfContract
      | .ok (i, _) => exec i s
  else .refused .sizeOutOfContract

/-- The state whose next step runs the instruction of a word of spec/opcode_table.json: its bytes stand at payload index 0
and the request has the size of a whole frame (log 4, log 5). -/
def State.withFetchWord (s : State) (nbits w : Nat) : State :=
  let bytes := tableBytes nbits w
  { s with req := s.req.withHeader (decide (bytes.head?.bind classify = some .fc)) bytes }

end Sys2Proof.Machine
end

