-- ==== Sys2Proof/Machine/Reference.lean ====
section
/-! DEFINITION. The spec's own pseudocode of a transaction, written down once more as it stands (R103 with R120 to R122, R140, R141,
R160, R161, R170): numbers instead of bit fields, and every payload byte read where the pseudocode reads it. It is no part of
the step; a statement says that the step agrees with it. -/

namespace Sys2Proof.Machine

open Params

/-- Read `P(i)` as a number and go on; a read at or above S faults (R51). -/
def pseudoByte (s : State) (i : Nat) (k : Nat → Result) : Result :=
  match readByte s.req i with
  | .error f => .fault f
  | .ok b => k b.toNat

/-- The end of a transaction (R107). -/
def pseudoDone (s : State) (p : Pdu) : Result :=
  .next { s with pdu := p, pduValid := true }

/-- `raise E` of a parser of the type with code `t` (R203). -/
def pseudoFail (s : State) (t e : Nat) : Result :=
  pseudoDone s { Pdu.unset with err := BitVec.ofNat 3 e, ftypeV := true, ftype := BitVec.ofNat 2 t }

/-- `return ok` with a length, an offset and a slice (R106). -/
def pseudoOk (s : State) (t len off dlen : Nat) : Result :=
  pseudoDone s
    { Pdu.unset with
      ftypeV := true, ftype := BitVec.ofNat 2 t, lenV := true, len := BitVec.ofNat 32 len
      offV := true, off := BitVec.ofNat 7 off, dlen := BitVec.ofNat 7 dlen }

/-- `sf_parse(S, ext, n)` (R120, R121, R122). -/
def pseudoSf (s : State) (n : Nat) : Result :=
  let S := s.req.S
  if n ≠ 0 then
    if n > SF_SHORT_MAX then pseudoFail s 0 3
    else if n + 1 > S then pseudoFail s 0 3
    else if s.req.ext ∧ n = SF_EXT_FORBIDDEN_SHORT then pseudoFail s 0 3
    else pseudoOk s 0 n (S - n) n
  else if S < 2 then pseudoFail s 0 2
  else pseudoByte s 1 fun L =>
    if L < SF_ESC_MIN then pseudoFail s 0 3
    else if ¬ s.req.ext ∧ L = SF_STD_FORBIDDEN_ESC then pseudoFail s 0 3
    else if L + 2 > S then pseudoFail s 0 3
    else pseudoOk s 0 L (S - L) L

/-- The last four lines of `ff_parse` (R140, R145, R146). -/
def pseudoFfEnd (s : State) (base L : Nat) : Result :=
  let off := base + (if s.req.ext then FF_EXT_OFFSET_ADJ else 0)
  if off > s.req.S then pseudoFail s 1 2
  else if L < minLen s.req.S s.req.ext then pseudoFail s 1 4
  else pseudoOk s 1 L off (s.req.S - off)

/-- `ff_parse(S, ext, n)` (R140). -/
def pseudoFf (s : State) (n : Nat) : Result :=
  if s.req.S < 2 then pseudoFail s 1 2
  else pseudoByte s 1 fun p1 =>
    if n * 256 + p1 ≠ 0 then pseudoFfEnd s 2 (n * 256 + p1)
    else if s.req.S < 6 then pseudoFail s 1 2
    else pseudoByte s 2 fun p2 => pseudoByte s 3 fun p3 => pseudoByte s 4 fun p4 => pseudoByte s 5 fun p5 =>
      pseudoFfEnd s 6 (p2 * 2 ^ 24 + p3 * 2 ^ 16 + p4 * 2 ^ 8 + p5)

/-- `cf_parse(S, n)` (R160, R161). -/
def pseudoCf (s : State) (n : Nat) : Result :=
  pseudoDone s
    { Pdu.unset with
      ftypeV := true, ftype := 2, seqV := true, seq := BitVec.ofNat 4 n
      offV := true, off := 1, dlen := BitVec.ofNat 7 (s.req.S - 1) }

/-- `return ok(FC; ..)` (R170). -/
def pseudoFcOk (s : State) (n bs us : Nat) : Result :=
  pseudoDone s
    { Pdu.unset with
      ftypeV := true, ftype := 3, fcV := true, fcFlag := BitVec.ofNat 2 n
      bs := BitVec.ofNat 8 bs, stUs := BitVec.ofNat 17 us }

/-- `fc_parse(S, n)` (R170). -/
def pseudoFc (s : State) (n : Nat) : Result :=
  if s.req.S ≠ FC_SIZE then pseudoFail s 3 3
  else if n > 2 then pseudoFail s 3 5
  else pseudoByte s 1 fun bs => pseudoByte s 2 fun st =>
    if st ≤ ST_MS_MAX then pseudoFcOk s n bs (st * 1000)
    else if ST_US_LO ≤ st ∧ st ≤ ST_US_HI then pseudoFcOk s n bs ((st - ST_US_BASE) * 100)
    else pseudoFail s 3 6

/-- `decode(req)` (R103): one classification and at most one parser. -/
def pseudoDecode (s : State) : Result :=
  let S := s.req.S
  if S = 0 ∨ S > Config.MAX_PAYLOAD then .refused .sizeOutOfContract
  else pseudoByte s 0 fun p0 =>
    let t := p0 / 16
    let n := p0 % 16
    if t ≥ 4 then pseudoDone s { Pdu.unset with err := 1 }
    else if t = 0 then pseudoSf s n
    else if t = 1 then pseudoFf s n
    else if t = 2 then pseudoCf s n
    else pseudoFc s n

end Sys2Proof.Machine
end

