-- ==== Sys2Proof/Machine/Requester.lean ====
section
/-! DEFINITION. What the outside can do to the block (spec/10_state.md R20, R31; spec/70_reset_and_hazards.md §1 and §3): present a
request, assert reset, read a response and its data slice, and run a sequence of requests; and the frame notation of
spec/30_encoding.md §5 that requests are written in. -/

namespace Sys2Proof.Machine

/-- The requester presents a request for the next transaction (R20, R21). -/
def State.present (s : State) (r : Request) : State :=
  { s with req := r }

/-- Reset (R230, R232): no response, the record at its sentinels; the request belongs to the requester and stays (R231). -/
def State.assertReset (s : State) : State :=
  { s with pdu := Pdu.unset, pduValid := false }

/-- A program of requests on one instance (R240): each request is presented and decoded in turn, and the responses are
collected in request order. It stops at the first request that gets none. -/
def serve : List Request → State → Host.Outcome (State × List Pdu) Fault Refusal
  | [], s => .next (s, [])
  | r :: rs, s =>
    match step (s.present r) with
    | .fault f => .fault f
    | .refused x => .refused x
    | .next t =>
      match serve rs t with
      | .fault f => .fault f
      | .refused x => .refused x
      | .next (u, ps) => .next (u, t.pdu :: ps)

/-- The data slice of a response, read from the request it answers (R31, R55): bytes `P(off)` to `P(off + dlen - 1)`. -/
def dataSlice (r : Request) (p : Pdu) : Except Fault (List Byte) :=
  readBytes r p.off.toNat p.dlen.toNat

/-- A response whose fields carry information: it is there and it is OK (R237). -/
def State.answered (s : State) : Bool :=
  s.pduValid && s.pdu.err == okCode

/-- `len`, where it is valid (R237, R238). -/
def State.readLen (s : State) : Option (BitVec 32) :=
  if s.answered && s.pdu.lenV then some s.pdu.len else none

/-- `off` and `dlen`, where they are valid (R237, R238). -/
def State.readSlice (s : State) : Option (BitVec 7 × BitVec 7) :=
  if s.answered && s.pdu.offV then some (s.pdu.off, s.pdu.dlen) else none

/-- `seq`, where it is valid (R237, R238). -/
def State.readSeq (s : State) : Option (BitVec 4) :=
  if s.answered && s.pdu.seqV then some s.pdu.seq else none

/-- `fc_flag`, `bs` and `st_us`, where they are valid (R237, R238). -/
def State.readFlow (s : State) : Option (BitVec 2 × BitVec 8 × BitVec 17) :=
  if s.answered && s.pdu.fcV then some (s.pdu.fcFlag, s.pdu.bs, s.pdu.stUs) else none

/-- `ftype`, where it is valid; an error record of a parser keeps it (R203, R237). -/
def State.readType (s : State) : Option (BitVec 2) :=
  if s.pduValid && s.pdu.ftypeV then some s.pdu.ftype else none

/-- `std[..]` (`ext` = false) or `ext[..]` (`ext` = true) of R83: a request with these payload bytes. A `size` of 7 bits
holds at most 127 (log 12). -/
def Request.ofBytes (ext : Bool) (bytes : List Byte) : Request where
  id := 0
  ext := ext
  fd := false
  size := BitVec.ofNat 7 (min bytes.length 127)
  payload := Memory.writeBytes [] 0 bytes

/-- `SF(d_1 .. d_L)` of R84, for 1 to 7 data bytes. -/
def frameSf (d : List Byte) : List Byte :=
  encode (.sfShort (BitVec.ofNat 4 d.length)) ++ d

/-- `SFX(d_1 .. d_L)` of R84, for 6 to 62 data bytes. -/
def frameSfx (d : List Byte) : List Byte :=
  encode (.sfEsc (some (BitVec.ofNat 8 d.length))) ++ d

/-- `FF(L; d ...)` of R84, for L from 1 to 4095. -/
def frameFf (L : BitVec 12) (d : List Byte) : List Byte :=
  encode (.ffShort (L.extractLsb' 8 4) (some (L.extractLsb' 0 8))) ++ d

/-- `FFX(L; d ...)` of R84, for any 32-bit L. -/
def frameFfx (L : Word32) (d : List Byte) : List Byte :=
  encode (.ffEsc (some L)) ++ d

/-- `CF(n; d ...)` of R84. -/
def frameCf (n : Nibble) (d : List Byte) : List Byte :=
  encode (.cf n) ++ d

/-- `FC(fs, bs, st)` of R84. -/
def frameFc (fs : Nibble) (bs st : Byte) : List Byte :=
  encode (.fc fs (some bs) (some st))

end Sys2Proof.Machine
end

