-- ==== Sys2Proof/Safety.lean ====
section
/-! DEFINITION. What counts as a safe run: the legal records of spec/10_state.md R25 to R28 and R202, and the invariant of the
block's state. -/

namespace Sys2Proof.Machine

/-- The type-specific fields of a record at their sentinels (R26, R28). -/
def Pdu.SpecificUnset (p : Pdu) : Prop :=
  p.lenV = false ∧ p.len = 0 ∧ p.offV = false ∧ p.off = 0 ∧ p.dlen = 0 ∧ p.seqV = false ∧ p.seq = 0 ∧
    p.fcV = false ∧ p.fcFlag = 0 ∧ p.bs = 0 ∧ p.stUs = 0

/-- An error record (R28, R203): a code from 1 to 6, the type unset for InvalidFrameType and only then, and every
type-specific field at its sentinel. -/
def Pdu.LegalError (p : Pdu) : Prop :=
  1 ≤ p.err.toNat ∧ p.err.toNat ≤ 6 ∧ (p.ftypeV = false ↔ p.err = PduError.code .invalidFrameType) ∧
    (p.ftypeV = false → p.ftype = 0) ∧ p.SpecificUnset

/-- The Single Frame record of R27, with the values R25 allows. -/
def Pdu.LegalSf (p : Pdu) : Prop :=
  p.ftype = FrameType.code .sf ∧ p.lenV = true ∧ 1 ≤ p.len.toNat ∧ p.len.toNat ≤ 62 ∧ p.offV = true ∧
    p.dlen.toNat = p.len.toNat ∧ p.seqV = false ∧ p.seq = 0 ∧ p.fcV = false ∧ p.fcFlag = 0 ∧ p.bs = 0 ∧ p.stUs = 0

/-- The First Frame record of R27, with the values R25 allows. -/
def Pdu.LegalFf (p : Pdu) : Prop :=
  p.ftype = FrameType.code .ff ∧ p.lenV = true ∧ 7 ≤ p.len.toNat ∧ p.offV = true ∧ 2 ≤ p.off.toNat ∧
    p.seqV = false ∧ p.seq = 0 ∧ p.fcV = false ∧ p.fcFlag = 0 ∧ p.bs = 0 ∧ p.stUs = 0

/-- The Consecutive Frame record of R27. -/
def Pdu.LegalCf (p : Pdu) : Prop :=
  p.ftype = FrameType.code .cf ∧ p.lenV = false ∧ p.len = 0 ∧ p.offV = true ∧ p.off = 1 ∧ p.seqV = true ∧
    p.fcV = false ∧ p.fcFlag = 0 ∧ p.bs = 0 ∧ p.stUs = 0

/-- The Flow Control record of R27, with the values R25 allows. -/
def Pdu.LegalFc (p : Pdu) : Prop :=
  p.ftype = FrameType.code .fc ∧ p.lenV = false ∧ p.len = 0 ∧ p.offV = false ∧ p.off = 0 ∧ p.dlen = 0 ∧
    p.seqV = false ∧ p.seq = 0 ∧ p.fcV = true ∧ p.fcFlag.toNat ≤ 2 ∧ p.stUs.toNat ≤ 127000

/-- A success record (R25, R27): the type valid, the record of that type, and a slice inside a payload of 64 bytes. -/
def Pdu.LegalSuccess (p : Pdu) : Prop :=
  p.err = okCode ∧ p.ftypeV = true ∧ (p.LegalSf ∨ p.LegalFf ∨ p.LegalCf ∨ p.LegalFc) ∧
    (p.offV = true → 1 ≤ p.off.toNat ∧ p.off.toNat + p.dlen.toNat ≤ Config.MAX_PAYLOAD)

/-- A record a completed transaction may leave. -/
def Pdu.Legal (p : Pdu) : Prop :=
  p.LegalError ∨ p.LegalSuccess

/-- The invariant of the block: the request's payload is in canonical form, the record is at its sentinels while no
transaction has completed since reset (R30, R230), and legal afterwards. -/
def State.Inv (s : State) : Prop :=
  s.req.payload.wf = true ∧ (s.pduValid = false → s.pdu = Pdu.unset) ∧ (s.pduValid = true → s.pdu.Legal)

end Sys2Proof.Machine
end

