-- ==== Sys2Proof/Certificates/Slice0/Obligations.lean ====
section
/-! DEFINITION. The statements for the provers: what spec/ says of the records the block leaves, of the request it never writes, of
decoding and encoding, and of runs of transactions. `Pdu.unset` is written out in full by the first statement. Where a
statement rests on a decision or an inference of the spec's own, its docstring names it. -/

open Sys2Proof Sys2Proof.Machine

/-- Reset (R230 to R232, the spec's decision D16): no response, every field of `pdu` 0, and an asserted reset leaves the
request as it was. The request's own values in State.reset are log 2 and nothing is said of them here. -/
def Obligations.ResetLeavesNoResponse : Prop :=
  State.reset.pduValid = false ∧
  State.reset.pdu =
    { err := 0, ftypeV := false, ftype := 0, lenV := false, len := 0, offV := false, off := 0, dlen := 0,
      seqV := false, seq := 0, fcV := false, fcFlag := 0, bs := 0, stUs := 0 } ∧
  State.reset.pdu = Pdu.unset ∧
  ∀ s : State, s.assertReset.pduValid = false ∧ s.assertReset.pdu = Pdu.unset ∧ s.assertReset.req = s.req

/-- The invariant holds right after reset. The record's values are the spec's decision D16; that the payload is canonical rests on
the model's own choices: the payload's form of log 3, and State.reset's empty one of log 2 (DESIGN CHOICE). -/
def Obligations.ResetMeetsInvariant : Prop :=
  State.reset.Inv

/-- From every state that meets the invariant a step gives one that meets it: the record is always a legal one (R25 to R28,
R202, R203; the record's layout is the spec's decision D3, the codes D4, the kept type D6). -/
def Obligations.StepKeepsInvariant : Prop :=
  ∀ s t : State, s.Inv → step s = .next t → t.Inv

/-- A step runs the decoded header (R103): the payload bytes that a header can cover, decoded, name the instruction. Nothing
is added around exec: there is no program counter (R33). -/
def Obligations.StepRunsDecodedHeader : Prop :=
  ∀ (s : State) (i : Instr) (rest : List Byte), s.req.Admitted →
    decode ((List.range (min s.req.S 6)).map s.req.payload.read) = .ok (i, rest) →
    step s = exec i s

/-- One word of each row, from the layouts of R72 to R74. -/
def Obligations.HeaderBytesDecode : Prop :=
  decode [0x03, 0xAA, 0xBB, 0xCC] = .ok (.sfShort 3, [0xAA, 0xBB, 0xCC]) ∧
  decode [0x00, 0x06, 0x01] = .ok (.sfEsc (some 0x06), [0x01]) ∧
  decode [0x1F, 0xFE, 0x00] = .ok (.ffShort 0xF (some 0xFE), [0x00]) ∧
  decode [0x10, 0x00, 0x12, 0x34, 0x56, 0x78, 0xAA] = .ok (.ffEsc (some 0x12345678), [0xAA]) ∧
  decode [0x2A] = .ok (.cf 0xA, []) ∧
  decode [0x31, 0x0A, 0x7F] = .ok (.fc 1 (some 0x0A) (some 0x7F), []) ∧
  decode [0x7E] = .ok (.invalidType47 0x3E, []) ∧
  decode [0xFF] = .ok (.invalidType8F 0x7F, [])

/-- Decoding the encoding of a well-formed header gives it back with the bytes that follow it; a header that lacks a byte is
the whole payload. No bit of an operand is dropped. -/
def Obligations.EncodedHeadersDecodeBack : Prop :=
  ∀ i : Instr, i.wf = true →
    decode (encode i) = .ok (i, []) ∧
    ((∀ hi, i ≠ .ffShort hi none) → i ≠ .sfEsc none → i ≠ .ffEsc none → (∀ f bs, i ≠ .fc f bs none) →
      ∀ d : List Byte, decode (encode i ++ d) = .ok (i, d))

/-- The other direction: what the decoder reads is well-formed, and its encoding and the rest are the bytes it read. -/
def Obligations.DecodedBytesAreTheEncoding : Prop :=
  ∀ (bytes : List Byte) (i : Instr) (rest : List Byte), decode bytes = .ok (i, rest) →
    i.wf = true ∧ bytes = encode i ++ rest

/-- The opcode map (R79, an inference the spec marks as its own): every value of byte 0 selects exactly one row, and the zero
test picks the SF and FF form. -/
def Obligations.OpcodeMapSelectsOneRow : Prop :=
  ∀ (b0 : Byte) (rest : List Byte), ∃ (i : Instr) (d : List Byte), decode (b0 :: rest) = .ok (i, d) ∧
    (b0.toNat = 0x00 → ∃ l, i = .sfEsc l) ∧
    (0x01 ≤ b0.toNat → b0.toNat ≤ 0x0F → i = .sfShort (BitVec.ofNat 4 b0.toNat)) ∧
    (∀ b1 r, b0.toNat = 0x10 → rest = b1 :: r → b1 = 0x00 → ∃ l, i = .ffEsc l) ∧
    (∀ b1 r, b0.toNat = 0x10 → rest = b1 :: r → b1 ≠ 0x00 → i = .ffShort 0 (some b1)) ∧
    (0x11 ≤ b0.toNat → b0.toNat ≤ 0x1F → i = .ffShort (BitVec.ofNat 4 (b0.toNat - 0x10)) rest.head?) ∧
    (0x20 ≤ b0.toNat → b0.toNat ≤ 0x2F → i = .cf (BitVec.ofNat 4 (b0.toNat - 0x20))) ∧
    (0x30 ≤ b0.toNat → b0.toNat ≤ 0x3F → i = .fc (BitVec.ofNat 4 (b0.toNat - 0x30)) rest[0]? rest[1]?) ∧
    (0x40 ≤ b0.toNat → b0.toNat ≤ 0x7F → i = .invalidType47 (BitVec.ofNat 6 (b0.toNat - 0x40))) ∧
    (0x80 ≤ b0.toNat → i = .invalidType8F (BitVec.ofNat 7 (b0.toNat - 0x80)))

/-- R100: the bit-field utility splits a byte into its nibbles, high nibble first, and loses nothing. -/
def Obligations.NibblesOfAByte : Prop :=
  ∀ b : Byte, (nib b).1 = b.extractLsb' 4 4 ∧ (nib b).2 = b.extractLsb' 0 4 ∧
    (nib b).1.toNat = b.toNat / 16 ∧ (nib b).2.toNat = b.toNat % 16

/-- R105: classification is a total function on the high nibble of byte 0; the values 4 to 15 always fail InvalidFrameType,
with the type left unset, its valid bit and its value 0, and the type-specific fields at their sentinels. -/
def Obligations.ClassifierIsTotalOnTheHighNibble : Prop :=
  (∀ b : Byte,
    (b.toNat / 16 = 0 → classify b = some .sf) ∧ (b.toNat / 16 = 1 → classify b = some .ff) ∧
    (b.toNat / 16 = 2 → classify b = some .cf) ∧ (b.toNat / 16 = 3 → classify b = some .fc) ∧
    (4 ≤ b.toNat / 16 → classify b = none)) ∧
  (∀ s : State, s.req.Admitted → 4 ≤ (s.req.payload.read 0).toNat / 16 →
    ∃ t, step s = .next t ∧ t.pduValid = true ∧ t.req = s.req ∧
      t.pdu.err = PduError.invalidFrameType.code ∧ t.pdu.ftypeV = false ∧ t.pdu.ftype = 0 ∧
      t.pdu.SpecificUnset)

/-- The two rows of invalid types run to their InvalidFrameType record whatever their ignored bits hold (R81, R102; the code 1
is the spec's decision D4). -/
def Obligations.InvalidTypeRowsAnswer : Prop :=
  ∀ (x : BitVec 6) (y : BitVec 7) (s : State), s.req.Admitted →
    exec (.invalidType47 x) s = .next { s with pdu := { Pdu.unset with err := 1 }, pduValid := true } ∧
    exec (.invalidType8F y) s = .next { s with pdu := { Pdu.unset with err := 1 }, pduValid := true }

/-- R121: SF_SHORT answers `len` = L, `off` = S - L, `dlen` = L when L is at most 7 and at most S - 1 and not 7 under extended
addressing; otherwise it raises InvalidLength. -/
def Obligations.SfShortResponse : Prop :=
  ∀ (l : Nibble) (s : State), s.req.Admitted → l ≠ 0 →
    (l.toNat ≤ 7 → l.toNat + 1 ≤ s.req.S → ¬(s.req.ext = true ∧ l.toNat = 7) →
      exec (.sfShort l) s = .next
        { s with
          pduValid := true
          pdu := { Pdu.unset with
            ftypeV := true, ftype := 0, lenV := true, len := BitVec.ofNat 32 l.toNat
            offV := true, off := BitVec.ofNat 7 (s.req.S - l.toNat), dlen := BitVec.ofNat 7 l.toNat } }) ∧
    (l.toNat > 7 ∨ l.toNat + 1 > s.req.S ∨ (s.req.ext = true ∧ l.toNat = 7) →
      ∃ t, exec (.sfShort l) s = .next t ∧ t.pduValid = true ∧ t.req = s.req ∧
        t.pdu.err = PduError.invalidLength.code ∧ t.pdu.SpecificUnset)

/-- R122: SF_ESC raises TruncatedHeader when S < 2, before anything else; then it answers `len` = L, `off` = S - L, `dlen` = L
when L is at least 6 and at most S - 2 and not 7 under standard addressing; otherwise it raises InvalidLength. -/
def Obligations.SfEscResponse : Prop :=
  ∀ s : State, s.req.Admitted →
    (∀ l : Option Byte, s.req.S < 2 →
      ∃ t, exec (.sfEsc l) s = .next t ∧ t.pduValid = true ∧ t.req = s.req ∧
        t.pdu.err = PduError.truncatedHeader.code ∧ t.pdu.SpecificUnset) ∧
    (∀ l : Byte, 6 ≤ l.toNat → ¬(s.req.ext = false ∧ l.toNat = 7) → l.toNat + 2 ≤ s.req.S →
      exec (.sfEsc (some l)) s = .next
        { s with
          pduValid := true
          pdu := { Pdu.unset with
            ftypeV := true, ftype := 0, lenV := true, len := BitVec.ofNat 32 l.toNat
            offV := true, off := BitVec.ofNat 7 (s.req.S - l.toNat), dlen := BitVec.ofNat 7 l.toNat } }) ∧
    (∀ l : Byte, 2 ≤ s.req.S → l.toNat < 6 ∨ (s.req.ext = false ∧ l.toNat = 7) ∨ l.toNat + 2 > s.req.S →
      ∃ t, exec (.sfEsc (some l)) s = .next t ∧ t.pduValid = true ∧ t.req = s.req ∧
        t.pdu.err = PduError.invalidLength.code ∧ t.pdu.SpecificUnset)

/-- R123: the SF data is the trailing `len` bytes of the payload, in both forms and for padded frames too. -/
def Obligations.SfDataIsTheTrailingBytes : Prop :=
  ∀ s t : State, step s = .next t → t.pdu.err = okCode → t.pdu.ftype = FrameType.code .sf →
    t.pdu.len.toNat ≤ s.req.S ∧ t.pdu.off.toNat = s.req.S - t.pdu.len.toNat ∧ t.pdu.dlen.toNat = t.pdu.len.toNat ∧
    dataSlice s.req t.pdu =
      .ok ((List.range t.pdu.len.toNat).map fun k => s.req.payload.read (s.req.S - t.pdu.len.toNat + k))

/-- R124: the SF form is selected by the low nibble of byte 0 only, whatever follows and however many bytes there are; and
the addressing mode does not enter. -/
def Obligations.SfFormByLowNibbleOnly : Prop :=
  ∀ s : State, s.req.Admitted → (s.req.payload.read 0).toNat / 16 = 0 →
    ((s.req.payload.read 0).toNat % 16 ≠ 0 →
      step s = exec (.sfShort (BitVec.ofNat 4 ((s.req.payload.read 0).toNat % 16))) s) ∧
    ((s.req.payload.read 0).toNat % 16 = 0 →
      step s = exec (.sfEsc (if 2 ≤ s.req.S then some (s.req.payload.read 1) else none)) s)

/-- The SF round trip (R125, an inference the spec marks as its own): the frame `std[0L d_1 .. d_L]`, L from 1 to 7, decodes to
`len` = L and `off` = 1, and the data slice is exactly its data bytes. -/
def Obligations.SfRoundTrip : Prop :=
  ∀ (d : List Byte) (s : State), 1 ≤ d.length → d.length ≤ 7 →
    ∃ t, step (s.present (Request.ofBytes false (frameSf d))) = .next t ∧
      t.pdu = { Pdu.unset with
        ftypeV := true, ftype := 0, lenV := true, len := BitVec.ofNat 32 d.length
        offV := true, off := 1, dlen := BitVec.ofNat 7 d.length } ∧
      dataSlice (Request.ofBytes false (frameSf d)) t.pdu = .ok d

/-- R141: the minimum length bound. -/
def Obligations.MinimumLengthBound : Prop :=
  ∀ S : Nat,
    (S ≤ 8 → minLen S false = 8 ∧ minLen S true = 7) ∧
    (8 < S → minLen S false = S - 1 ∧ minLen S true = S - 2)

/-- FF_SHORT (R140, R143, R145, R146): the record when the offset fits and the length is at least the bound, and the errors in
their order. The truncation checks are the spec's decision D10, the offset adjustment its parameter of decision D9 (log 9;
its value is not used here), and the type kept on an error its decision D6. -/
def Obligations.FfShortResponse : Prop :=
  ∀ (hi : Nibble) (b1 : Byte) (s : State), s.req.Admitted →
    let L := hi.toNat * 256 + b1.toNat
    let off := 2 + if s.req.ext = true then Params.FF_EXT_OFFSET_ADJ else 0
    (off ≤ s.req.S → minLen s.req.S s.req.ext ≤ L →
      exec (.ffShort hi (some b1)) s = .next
        { s with
          pduValid := true
          pdu := { Pdu.unset with
            ftypeV := true, ftype := 1, lenV := true, len := BitVec.ofNat 32 L
            offV := true, off := BitVec.ofNat 7 off, dlen := BitVec.ofNat 7 (s.req.S - off) } }) ∧
    (s.req.S < off → ∀ lo : Option Byte, (2 ≤ s.req.S → lo = some b1) →
      exec (.ffShort hi lo) s = .next
        { s with pduValid := true, pdu := { Pdu.unset with err := 2, ftypeV := true, ftype := 1 } }) ∧
    (off ≤ s.req.S → L < minLen s.req.S s.req.ext →
      exec (.ffShort hi (some b1)) s = .next
        { s with pduValid := true, pdu := { Pdu.unset with err := 4, ftypeV := true, ftype := 1 } })

/-- FF_ESC (R140, R144, R145, R146): as FF_SHORT with six header bytes and the 32-bit length; every TruncatedHeader check comes
before the length check. Decisions D6, D9 and D10 as in FfShortResponse. -/
def Obligations.FfEscResponse : Prop :=
  ∀ (w : Word32) (s : State), s.req.Admitted →
    let off := 6 + if s.req.ext = true then Params.FF_EXT_OFFSET_ADJ else 0
    (off ≤ s.req.S → minLen s.req.S s.req.ext ≤ w.toNat →
      exec (.ffEsc (some w)) s = .next
        { s with
          pduValid := true
          pdu := { Pdu.unset with
            ftypeV := true, ftype := 1, lenV := true, len := w
            offV := true, off := BitVec.ofNat 7 off, dlen := BitVec.ofNat 7 (s.req.S - off) } }) ∧
    (s.req.S < off → ∀ len : Option Word32, (6 ≤ s.req.S → len = some w) →
      exec (.ffEsc len) s = .next
        { s with pduValid := true, pdu := { Pdu.unset with err := 2, ftypeV := true, ftype := 1 } }) ∧
    (off ≤ s.req.S → w.toNat < minLen s.req.S s.req.ext →
      exec (.ffEsc (some w)) s = .next
        { s with pduValid := true, pdu := { Pdu.unset with err := 4, ftypeV := true, ftype := 1 } })

/-- The accepted FF lengths (R147, an inference the spec marks as its own, with `FF_EXT_OFFSET_ADJ` = 0, decision D9, log 9): for S
up to 8, L >= 8 under standard and L >= 7 under extended addressing; above, L >= S - 1 and L >= S - 2. -/
def Obligations.FfAcceptedLengths : Prop :=
  ∀ s : State, s.req.Admitted →
    let bound := if s.req.S ≤ 8 then (if s.req.ext = true then 7 else 8)
      else (if s.req.ext = true then s.req.S - 2 else s.req.S - 1)
    (∀ (hi : Nibble) (b1 : Byte), 2 ≤ s.req.S →
      ∃ t, exec (.ffShort hi (some b1)) s = .next t ∧ (t.pdu.err = okCode ↔ bound ≤ hi.toNat * 256 + b1.toNat)) ∧
    (∀ w : Word32, 6 ≤ s.req.S →
      ∃ t, exec (.ffEsc (some w)) s = .next t ∧ (t.pdu.err = okCode ↔ bound ≤ w.toNat))

/-- The FF data offset over both values of the adjustment (R145, decision D9): the header size under standard addressing, and
one more under extended addressing exactly when the adjustment is 1. -/
def Obligations.FfOffsetFollowsTheAdjustment : Prop :=
  ∀ (adj : Nat) (hi : Nibble) (b1 : Byte) (w : Word32) (s t : State), adj ≤ 1 →
    (ffShortWith adj hi (some b1) s = .next t → t.pdu.err = okCode →
      t.pdu.off.toNat = (if s.req.ext = true then 2 + adj else 2) ∧ t.pdu.off.toNat + t.pdu.dlen.toNat = s.req.S) ∧
    (ffEscWith adj (some w) s = .next t → t.pdu.err = okCode →
      t.pdu.off.toNat = (if s.req.ext = true then 6 + adj else 6) ∧ t.pdu.off.toNat + t.pdu.dlen.toNat = s.req.S)

/-- R161: CF answers the sequence index, offset 1 and the bytes that remain, with `len` and the FC fields unset, for every
sequence index, size and addressing mode. -/
def Obligations.CfResponse : Prop :=
  ∀ (n : Nibble) (s : State), s.req.Admitted →
    exec (.cf n) s = .next
      { s with
        pduValid := true
        pdu := { Pdu.unset with
          ftypeV := true, ftype := 2, seqV := true, seq := n
          offV := true, off := 1, dlen := BitVec.ofNat 7 (s.req.S - 1) } }

/-- CF reads no byte but byte 0 and not `ext` (R160), and SF short reads no byte but byte 0 (R120): requests of one size that
agree there get the same record. -/
def Obligations.HeaderOfOneByteReadsNoOther : Prop :=
  ∀ s u t : State, s.req.S = u.req.S → s.req.payload.read 0 = u.req.payload.read 0 → step s = .next t →
    ((s.req.payload.read 0).toNat / 16 = 2 → step u = .next { u with pdu := t.pdu, pduValid := true }) ∧
    (1 ≤ (s.req.payload.read 0).toNat → (s.req.payload.read 0).toNat ≤ 15 → s.req.ext = u.req.ext →
      step u = .next { u with pdu := t.pdu, pduValid := true })

/-- FC (R170, R171, R173, R175): size first, then the flag, then the separation time, and the record. Flag before separation
time is the spec's decision D11, the microsecond unit D12, the unset length and offset D14, the kept type D6. -/
def Obligations.FcResponse : Prop :=
  ∀ (flag : Nibble) (s : State), s.req.Admitted →
    (∀ bs st : Option Byte, s.req.S ≠ 3 →
      exec (.fc flag bs st) s = .next
        { s with pduValid := true, pdu := { Pdu.unset with err := 3, ftypeV := true, ftype := 3 } }) ∧
    (∀ bs st : Option Byte, s.req.S = 3 → 2 < flag.toNat →
      exec (.fc flag bs st) s = .next
        { s with pduValid := true, pdu := { Pdu.unset with err := 5, ftypeV := true, ftype := 3 } }) ∧
    (∀ bs st : Byte, s.req.S = 3 → flag.toNat ≤ 2 → st.toNat ≤ 0x7F →
      exec (.fc flag (some bs) (some st)) s = .next
        { s with
          pduValid := true
          pdu := { Pdu.unset with
            ftypeV := true, ftype := 3, fcV := true, fcFlag := BitVec.ofNat 2 flag.toNat, bs := bs
            stUs := BitVec.ofNat 17 (st.toNat * 1000) } }) ∧
    (∀ bs st : Byte, s.req.S = 3 → flag.toNat ≤ 2 → 0xF1 ≤ st.toNat → st.toNat ≤ 0xF9 →
      exec (.fc flag (some bs) (some st)) s = .next
        { s with
          pduValid := true
          pdu := { Pdu.unset with
            ftypeV := true, ftype := 3, fcV := true, fcFlag := BitVec.ofNat 2 flag.toNat, bs := bs
            stUs := BitVec.ofNat 17 ((st.toNat - 0xF0) * 100) } }) ∧
    (∀ bs st : Byte, s.req.S = 3 → flag.toNat ≤ 2 → (0x80 ≤ st.toNat ∧ st.toNat ≤ 0xF0) ∨ 0xFA ≤ st.toNat →
      exec (.fc flag (some bs) (some st)) s = .next
        { s with pduValid := true, pdu := { Pdu.unset with err := 6, ftypeV := true, ftype := 3 } })

/-- R172: the flag is the low nibble of byte 0; the values 3 to 15 raise InvalidFlowControlFlag, and on success `fc_flag`
holds 0, 1 or 2. -/
def Obligations.FlowControlFlagValues : Prop :=
  ∀ (s t : State), s.req.S = 3 → (s.req.payload.read 0).toNat / 16 = 3 → step s = .next t →
    (3 ≤ (s.req.payload.read 0).toNat % 16 → t.pdu.err = PduError.invalidFlowControlFlag.code) ∧
    ((s.req.payload.read 0).toNat % 16 ≤ 2 → t.pdu.err ≠ PduError.invalidFlowControlFlag.code) ∧
    (t.pdu.err = okCode → t.pdu.fcV = true ∧ t.pdu.fcFlag.toNat = (s.req.payload.read 0).toNat % 16 ∧ t.pdu.fcFlag.toNat ≤ 2)

/-- R174: the block size is byte 1, unsigned; every value 0 to 255 is accepted and copied to `bs`. -/
def Obligations.FlowControlBlockSizeIsCopied : Prop :=
  ∀ (flag : Nibble) (bs st : Byte) (s : State), s.req.S = 3 → flag.toNat ≤ 2 → (st.toNat ≤ 0x7F ∨ (0xF1 ≤ st.toNat ∧ st.toNat ≤ 0xF9)) →
    ∃ t, exec (.fc flag (some bs) (some st)) s = .next t ∧ t.pdu.err = okCode ∧ t.pdu.fcV = true ∧ t.pdu.bs = bs

/-- The separation-time boundaries (R176, an inference the spec marks as its own; microseconds are decision D12): 0x7F gives
127000, 0x80 fails, 0xF1 gives 100, 0xF9 gives 900, 0xFA fails. -/
def Obligations.SeparationTimeBoundaries : Prop :=
  ∀ (bs : Byte) (s : State), s.req.S = 3 →
    (∃ t, exec (.fc 0 (some bs) (some 0x7F)) s = .next t ∧ t.pdu.err = okCode ∧ t.pdu.stUs = 127000) ∧
    (∃ t, exec (.fc 0 (some bs) (some 0x80)) s = .next t ∧ t.pdu.err = PduError.invalidSeparationTime.code) ∧
    (∃ t, exec (.fc 0 (some bs) (some 0xF1)) s = .next t ∧ t.pdu.err = okCode ∧ t.pdu.stUs = 100) ∧
    (∃ t, exec (.fc 0 (some bs) (some 0xF9)) s = .next t ∧ t.pdu.err = okCode ∧ t.pdu.stUs = 900) ∧
    (∃ t, exec (.fc 0 (some bs) (some 0xFA)) s = .next t ∧ t.pdu.err = PduError.invalidSeparationTime.code)

/-- The error record of a step (R28, R203): every type-specific field at its sentinel; the type unset for InvalidFrameType, and
the class of byte 0 for every other error (the spec's decision D6). -/
def Obligations.FailedDecodeLeavesSentinels : Prop :=
  ∀ s t : State, step s = .next t → t.pdu.err ≠ okCode →
    t.pdu.SpecificUnset ∧
    (t.pdu.err = PduError.invalidFrameType.code → t.pdu.ftypeV = false ∧ t.pdu.ftype = 0) ∧
    (t.pdu.err ≠ PduError.invalidFrameType.code →
      t.pdu.ftypeV = true ∧ t.pdu.ftype.toNat = (s.req.payload.read 0).toNat / 16)

/-- A successful record has its type valid, and the type is the type nibble of byte 0 (R27, R106; the code is the spec's
decision D5); the valid bits are those of the type. -/
def Obligations.SuccessfulTypeIsTheTypeNibble : Prop :=
  ∀ s t : State, step s = .next t → t.pdu.err = okCode →
    t.pdu.ftypeV = true ∧ t.pdu.ftype.toNat = (s.req.payload.read 0).toNat / 16 ∧
    (t.pdu.lenV = true ↔ (s.req.payload.read 0).toNat / 16 ≤ 1) ∧
    (t.pdu.offV = true ↔ (s.req.payload.read 0).toNat / 16 ≤ 2) ∧
    (t.pdu.seqV = true ↔ (s.req.payload.read 0).toNat / 16 = 2) ∧
    (t.pdu.fcV = true ↔ (s.req.payload.read 0).toNat / 16 = 3)

/-- The readers of a requester (R203, R237, R238, decision D3): nothing is read while there is no response; of a response, OK or
error, the type is read exactly where its valid bit is 1; the other fields are read only from an OK response, exactly where their
valid bit is 1. The readers are the model's form of the requester's duties. -/
def Obligations.ReadersGiveValidFieldsOnly : Prop :=
  ∀ s : State,
    (s.pduValid = false → s.readType = none ∧ s.readLen = none ∧ s.readSlice = none ∧ s.readSeq = none ∧ s.readFlow = none) ∧
    (s.pduValid = true →
      (s.pdu.ftypeV = true → s.readType = some s.pdu.ftype) ∧ (s.pdu.ftypeV = false → s.readType = none)) ∧
    (s.pdu.err ≠ okCode → s.readLen = none ∧ s.readSlice = none ∧ s.readSeq = none ∧ s.readFlow = none) ∧
    (s.pduValid = true → s.pdu.err = okCode →
      (s.pdu.lenV = true → s.readLen = some s.pdu.len) ∧
      (s.pdu.offV = true → s.readSlice = some (s.pdu.off, s.pdu.dlen)) ∧
      (s.pdu.seqV = true → s.readSeq = some s.pdu.seq) ∧
      (s.pdu.fcV = true → s.readFlow = some (s.pdu.fcFlag, s.pdu.bs, s.pdu.stUs)) ∧
      (s.pdu.lenV = false → s.readLen = none) ∧ (s.pdu.offV = false → s.readSlice = none) ∧
      (s.pdu.seqV = false → s.readSeq = none) ∧ (s.pdu.fcV = false → s.readFlow = none))

/-- Code 7 is never produced, by a step or by a meaning (R202, decision D4). -/
def Obligations.ReservedErrorCodeNeverProduced : Prop :=
  (∀ s t : State, step s = .next t → t.pdu.err.toNat ≤ 6) ∧
  (∀ (i : Instr) (s t : State), exec i s = .next t → t.pdu.err.toNat ≤ 6)

/-- The slice of every step's response runs to the end of the payload, and its bytes can be read (R55, an inference the spec
marks as its own). -/
def Obligations.SliceRunsToTheEndOfThePayload : Prop :=
  ∀ s t : State, step s = .next t → t.pdu.offV = true →
    1 ≤ t.pdu.off.toNat ∧ t.pdu.off.toNat + t.pdu.dlen.toNat = s.req.S ∧
    dataSlice s.req t.pdu = .ok ((List.range t.pdu.dlen.toNat).map fun k => s.req.payload.read (t.pdu.off.toNat + k))

/-- Every admitted request gets exactly one response (R109, an inference the spec marks as its own): decode is total on them. -/
def Obligations.AdmittedRequestsAreAnswered : Prop :=
  ∀ s : State, s.req.Admitted → ∃ t, step s = .next t ∧ t.pduValid = true

/-- A request with S = 0 or S > 64 is refused, by the step and by no meaning answered (R24, R206, decision D7). -/
def Obligations.SizesOutOfContractAreRefused : Prop :=
  ∀ s : State, s.req.S = 0 ∨ 64 < s.req.S →
    step s = .refused .sizeOutOfContract ∧ ∀ (i : Instr) (t : State), exec i s ≠ .next t

/-- No step reads a byte at or above S (R51, decision D22: "the fault is never reached by the rules"). -/
def Obligations.NoStepFaults : Prop :=
  ∀ (s : State) (f : Fault), step s ≠ .fault f

/-- `P(i)` below S is the payload's byte, and a read at or above S faults (R51, decision D22). -/
def Obligations.ReadsAtOrAboveTheSizeFault : Prop :=
  ∀ (r : Request) (i : Nat), r.Admitted →
    (i < r.S → readByte r i = .ok (r.payload.read i)) ∧ (r.S ≤ i → readByte r i = .error .readBeyondPayload)

/-- A header given without a byte that its own size check says the payload holds stops at that read (R51; the form of the
operands is the model's own, log 6). -/
def Obligations.AbsentOperandsFault : Prop :=
  ∀ s : State,
    (2 ≤ s.req.S → exec (.sfEsc none) s = .fault .readBeyondPayload) ∧
    (∀ hi, 2 ≤ s.req.S → exec (.ffShort hi none) s = .fault .readBeyondPayload) ∧
    (6 ≤ s.req.S → exec (.ffEsc none) s = .fault .readBeyondPayload) ∧
    (∀ (flag : Nibble) (bs st : Option Byte), s.req.S = 3 → flag.toNat ≤ 2 → bs = none ∨ st = none →
      exec (.fc flag bs st) s = .fault .readBeyondPayload)

/-- R23 and R53, the frame of every instruction and of the step: the request is never written, every payload byte reads as
before, and all that changes is `pdu` and `pdu_valid`. -/
def Obligations.RequestIsNeverWritten : Prop :=
  (∀ (i : Instr) (s t : State), exec i s = .next t →
    t.req = s.req ∧ (∀ a, t.req.payload.read a = s.req.payload.read a) ∧ t = { s with pdu := t.pdu, pduValid := true }) ∧
  (∀ s t : State, step s = .next t →
    t.req = s.req ∧ (∀ a, t.req.payload.read a = s.req.payload.read a) ∧ t = { s with pdu := t.pdu, pduValid := true })

/-- R29: the record a transaction leaves is a function of its request alone and carries nothing of an earlier record. -/
def Obligations.RecordDependsOnTheRequestAlone : Prop :=
  ∀ s u t : State, s.req = u.req → step s = .next t → step u = .next { u with pdu := t.pdu, pduValid := true }

/-- R37: decoding the same message twice yields two records with identical field values, whatever else the state held before the
second decode. -/
def Obligations.DecodingTwiceGivesTheSameRecord : Prop :=
  ∀ s t : State, step s = .next t →
    step t = .next t ∧ ∀ u : State, u.req = s.req → ∃ v, step u = .next v ∧ v.pdu = t.pdu

/-- The response depends on `ext`, S and the bytes below S alone: not on `id`, `fd` or later bytes (R22 and R108, inferences the
spec marks as its own, and decision D8). -/
def Obligations.UnreadRequestFieldsDoNotMatter : Prop :=
  ∀ s u t : State, s.req.ext = u.req.ext → s.req.S = u.req.S →
    (∀ k, k < s.req.S → s.req.payload.read k = u.req.payload.read k) →
    step s = .next t → step u = .next { u with pdu := t.pdu, pduValid := true }

/-- The step is the spec's own pseudocode of a transaction (R103 with R120 to R122, R140, R160, R161 and R170, whose checks rest on
decisions D6, D7, D9, D10, D11, D12), in every state: it answers the same, refuses the same and faults the same. -/
def Obligations.StepIsThePseudocode : Prop :=
  ∀ s : State, step s = pseudoDecode s

/-- A program of admitted requests (R59, R240, decisions D17 and D23): it gets one response per request, in request order, each the
one that the request gets when it is decoded alone after reset; the last one is left in `pdu`. `serve`, which fixes the order of one
instance without pipelining, is the model's form (log 14). -/
def Obligations.RequestsAreServedInOrder : Prop :=
  ∀ (rs : List Request) (s : State), (∀ r ∈ rs, r.Admitted) →
    ∃ (u : State) (ps : List Pdu), serve rs s = .next (u, ps) ∧ ps.length = rs.length ∧
      (∀ (k : Nat) (r : Request), rs[k]? = some r →
        ∃ t, step (State.reset.present r) = .next t ∧ ps[k]? = some t.pdu) ∧
      (∀ p, ps.getLast? = some p → u.pdu = p ∧ u.pduValid = true)

/-- The first request after a reset is decoded by the same rules as every other (R232, R234, decisions D16 and D27). -/
def Obligations.ResetDoesNotChangeTheNextResponse : Prop :=
  ∀ s t : State, step s = .next t → step s.assertReset = .next t

/-- R54: the two fields of more than one byte are big-endian, the byte at the lower index holding the more significant bits. -/
def Obligations.MultiByteFieldsAreBigEndian : Prop :=
  (∀ (n : Nibble) (b1 : Byte), (f12 n b1).toNat = n.toNat * 2 ^ 8 + b1.toNat) ∧
  (∀ (b2 b3 b4 b5 : Byte) (d : List Byte), ∃ w : Word32,
    decode (0x10 :: 0x00 :: b2 :: b3 :: b4 :: b5 :: d) = .ok (.ffEsc (some w), d) ∧
    w.toNat = b2.toNat * 2 ^ 24 + b3.toNat * 2 ^ 16 + b4.toNat * 2 ^ 8 + b5.toNat)

/-- A request written as a list of 1 to 64 bytes (R83, decision D25) is admitted, holds its payload in canonical form, and
`P(i)` is byte i of the list. -/
def Obligations.PresentedBytesAreThePayload : Prop :=
  ∀ (ext : Bool) (bytes : List Byte), 1 ≤ bytes.length → bytes.length ≤ 64 →
    (Request.ofBytes ext bytes).Admitted ∧ (Request.ofBytes ext bytes).S = bytes.length ∧
    (Request.ofBytes ext bytes).payload.wf = true ∧
    ∀ (i : Nat) (b : Byte), bytes[i]? = some b → readByte (Request.ofBytes ext bytes) i = .ok b

/-- A word laid by the model's withFetchWord (its own convention, log 4 and log 5) is the instruction the very next step runs;
the record and its valid bit are untouched by the laying. -/
def Obligations.LaidWordIsTheNextInstruction : Prop :=
  ∀ (s : State) (nbits w : Nat), ∃ i : Instr, decodeTableWord nbits w = some i ∧
    (s.withFetchWord nbits w).req.Admitted ∧
    (s.withFetchWord nbits w).pdu = s.pdu ∧ (s.withFetchWord nbits w).pduValid = s.pduValid ∧
    (s.req.payload.wf = true → step (s.withFetchWord nbits w) = exec i (s.withFetchWord nbits w))
end

