-- ==== Sys2Proof/Laws/Decode.lean ====
section
/-! SUPPORT. The small lemmas of the decoder: nibbles put together and taken apart, the classifier on a type nibble, and the field
assemblies as numbers. -/

namespace Sys2Proof.Machine

theorem nib_append (hi lo : Nibble) : nib (hi ++ lo) = (hi, lo) := by
  revert hi lo
  decide

theorem append_nib (b : Byte) : (nib b).1 ++ (nib b).2 = b := by
  revert b
  decide

theorem nib_fst_toNat (b : Byte) : (nib b).1.toNat = b.toNat / 16 := by
  revert b
  decide

theorem nib_snd_toNat (b : Byte) : (nib b).2.toNat = b.toNat % 16 := by
  revert b
  decide

theorem classify_sf (n : Nibble) : classify (0x0#4 ++ n) = some .sf := by
  simp [classify, nib_append]

theorem classify_ff (n : Nibble) : classify (0x1#4 ++ n) = some .ff := by
  simp [classify, nib_append]

theorem classify_cf (n : Nibble) : classify (0x2#4 ++ n) = some .cf := by
  simp [classify, nib_append]

theorem classify_fc (n : Nibble) : classify (0x3#4 ++ n) = some .fc := by
  simp [classify, nib_append]

theorem classify_invalid47 (x : BitVec 6) : classify (0x1#2 ++ x) = none := by
  revert x
  decide

theorem classify_invalid8F (x : BitVec 7) : classify (0x1#1 ++ x) = none := by
  revert x
  decide

theorem f12_toNat (n : Nibble) (b : Byte) : (f12 n b).toNat = n.toNat * 256 + b.toNat := by
  have hb := b.isLt
  rw [f12, BitVec.toNat_append, ← Nat.shiftLeft_add_eq_or_of_lt hb, Nat.shiftLeft_eq]

end Sys2Proof.Machine
end

