-- ==== Sys2Proof/Laws/Memory.lean ====
section
/-! SUPPORT. The payload as a canonical list: every operation keeps the form, a read after a write, and what the reads of the block
answer. -/

namespace Sys2Proof.Machine

theorem Memory.wfFrom_cons {lo a : Nat} {b : Byte} {m : Memory} :
    Memory.wfFrom lo ((a, b) :: m) = true ↔
      (lo ≤ a ∧ a < Config.MAX_PAYLOAD ∧ b ≠ unlistedByte) ∧ Memory.wfFrom (a + 1) m = true := by
  simp [Memory.wfFrom, and_assoc]

theorem Memory.wfFrom_mono {lo lo' : Nat} {m : Memory} (h : lo' ≤ lo) (hm : Memory.wfFrom lo m = true) :
    Memory.wfFrom lo' m = true := by
  cases m with
  | nil => rfl
  | cons c m =>
    obtain ⟨⟨h1, h2⟩, h3⟩ := Memory.wfFrom_cons.1 hm
    exact Memory.wfFrom_cons.2 ⟨⟨h.trans h1, h2⟩, h3⟩

/-- Below the first listed index every byte is the unlisted one. -/
theorem Memory.read_below {lo i : Nat} {m : Memory} (hm : Memory.wfFrom lo m = true) (h : i < lo) :
    m.read i = unlistedByte := by
  induction m generalizing lo with
  | nil => rfl
  | cons c m ih =>
    obtain ⟨⟨h1, -, -⟩, h3⟩ := Memory.wfFrom_cons.1 hm
    have hne : c.1 ≠ i := by omega
    simpa [Memory.read, hne] using ih h3 (by omega)

theorem Memory.wfFrom_put {lo i : Nat} {v : Byte} {m : Memory} (hi : i < Config.MAX_PAYLOAD) (hlo : lo ≤ i)
    (hm : Memory.wfFrom (i + 1) m = true) : Memory.wfFrom lo (Memory.put i v m) = true := by
  by_cases hv : v = unlistedByte
  · simpa [Memory.put, hv] using Memory.wfFrom_mono (by omega) hm
  · simpa [Memory.put, hv] using Memory.wfFrom_cons.2 ⟨⟨hlo, hi, hv⟩, hm⟩

theorem Memory.read_put_same {i : Nat} {v : Byte} {m : Memory} (hm : Memory.wfFrom (i + 1) m = true) :
    (Memory.put i v m).read i = v := by
  by_cases hv : v = unlistedByte
  · simpa [Memory.put, hv] using Memory.read_below hm (Nat.lt_succ_self i)
  · simp [Memory.put, hv, Memory.read]

theorem Memory.read_put_other {i j : Nat} {v : Byte} {m : Memory} (h : j ≠ i) :
    (Memory.put i v m).read j = m.read j := by
  by_cases hv : v = unlistedByte
  · simp [Memory.put, hv]
  · simp [Memory.put, hv, Memory.read, h.symm]

theorem Memory.wfFrom_write {lo i : Nat} {v : Byte} {m : Memory} (hi : i < Config.MAX_PAYLOAD) (hlo : lo ≤ i)
    (hm : Memory.wfFrom lo m = true) : Memory.wfFrom lo (Memory.write m i v) = true := by
  induction m generalizing lo with
  | nil => exact Memory.wfFrom_put hi hlo rfl
  | cons c m ih =>
    obtain ⟨a, b⟩ := c
    obtain ⟨⟨h1, h2⟩, h3⟩ := Memory.wfFrom_cons.1 hm
    rcases Nat.lt_trichotomy i a with h | h | h
    · simpa [Memory.write, h] using Memory.wfFrom_put hi hlo (Memory.wfFrom_cons.2 ⟨⟨h, h2⟩, h3⟩)
    · subst h
      simpa [Memory.write] using Memory.wfFrom_put hi hlo h3
    · simpa [Memory.write, Nat.not_lt.2 h.le, Nat.ne_of_gt h] using Memory.wfFrom_cons.2 ⟨⟨h1, h2⟩, ih h h3⟩

/-- A read after a write to the same index gives the byte written. -/
theorem Memory.read_write_same {lo i : Nat} {v : Byte} {m : Memory} (hlo : lo ≤ i) (hm : Memory.wfFrom lo m = true) :
    (Memory.write m i v).read i = v := by
  induction m generalizing lo with
  | nil => exact Memory.read_put_same rfl
  | cons c m ih =>
    obtain ⟨a, b⟩ := c
    obtain ⟨⟨h1, h2⟩, h3⟩ := Memory.wfFrom_cons.1 hm
    rcases Nat.lt_trichotomy i a with h | h | h
    · simpa [Memory.write, h] using Memory.read_put_same (Memory.wfFrom_cons.2 ⟨⟨h, h2⟩, h3⟩)
    · subst h
      simpa [Memory.write] using Memory.read_put_same h3
    · simpa [Memory.write, Nat.not_lt.2 h.le, Nat.ne_of_gt h, Memory.read, Nat.ne_of_lt h] using ih h h3

/-- A write leaves every other index alone. -/
theorem Memory.read_write_other {lo i j : Nat} {v : Byte} {m : Memory} (h : j ≠ i) (hm : Memory.wfFrom lo m = true) :
    (Memory.write m i v).read j = m.read j := by
  induction m generalizing lo with
  | nil => exact Memory.read_put_other h
  | cons c m ih =>
    obtain ⟨a, b⟩ := c
    obtain ⟨-, h3⟩ := Memory.wfFrom_cons.1 hm
    rcases Nat.lt_trichotomy i a with ha | ha | ha
    · simpa [Memory.write, ha] using Memory.read_put_other h
    · subst ha
      simpa [Memory.write, Memory.read, h.symm] using Memory.read_put_other h
    · have hih := ih h3
      by_cases haj : a = j
      · subst haj
        simp [Memory.write, Nat.not_lt.2 ha.le, Nat.ne_of_gt ha, Memory.read]
      · simpa [Memory.write, Nat.not_lt.2 ha.le, Nat.ne_of_gt ha, Memory.read, haj] using hih

theorem Memory.wf_write {i : Nat} {v : Byte} {m : Memory} (hi : i < Config.MAX_PAYLOAD) (hm : m.wf = true) :
    (Memory.write m i v).wf = true :=
  Memory.wfFrom_write hi (Nat.zero_le i) hm

theorem Memory.wf_writeBytes {m : Memory} {i : Nat} {bs : List Byte} (hm : m.wf = true) :
    (m.writeBytes i bs).wf = true := by
  induction bs generalizing m i with
  | nil => exact hm
  | cons v vs ih =>
    by_cases hi : i < Config.MAX_PAYLOAD
    · simpa [Memory.writeBytes, hi] using ih (Memory.wf_write hi hm)
    · simpa [Memory.writeBytes, hi] using hm

theorem Memory.read_writeBytes_below {m : Memory} {i j : Nat} {bs : List Byte} (h : j < i) (hm : m.wf = true) :
    (m.writeBytes i bs).read j = m.read j := by
  induction bs generalizing m i with
  | nil => rfl
  | cons v vs ih =>
    by_cases hi : i < Config.MAX_PAYLOAD
    · simp only [Memory.writeBytes, hi, if_true]
      rw [ih (by omega) (Memory.wf_write hi hm), Memory.read_write_other (by omega) hm]
    · simp [Memory.writeBytes, hi]

/-- Bytes laid from an index on are read back there. -/
theorem Memory.read_writeBytes {m : Memory} {i k : Nat} {bs : List Byte} {b : Byte} (hm : m.wf = true)
    (hk : bs[k]? = some b) (hi : i + k < Config.MAX_PAYLOAD) : (m.writeBytes i bs).read (i + k) = b := by
  induction bs generalizing m i k with
  | nil => simp at hk
  | cons v vs ih =>
    have hi0 : i < Config.MAX_PAYLOAD := by omega
    simp only [Memory.writeBytes, hi0, if_true]
    cases k with
    | zero =>
      have hr := Memory.read_writeBytes_below (bs := vs) (Nat.lt_add_one i) (Memory.wf_write (v := v) hi0 hm)
      have hv : v = b := by simpa using hk
      exact hr.trans ((Memory.read_write_same (Nat.zero_le i) hm).trans hv)
    | succ k =>
      have := ih (i := i + 1) (k := k) (Memory.wf_write (v := v) hi0 hm) (by simpa using hk) (by omega)
      rwa [show i + (k + 1) = i + 1 + k by omega]

/-- Two payloads in canonical form that read the same everywhere are the same data. -/
theorem Memory.ext_of_wfFrom {lo : Nat} {m m' : Memory} (hm : Memory.wfFrom lo m = true) (hm' : Memory.wfFrom lo m' = true)
    (h : ∀ i, m.read i = m'.read i) : m = m' := by
  induction m generalizing lo m' with
  | nil =>
    cases m' with
    | nil => rfl
    | cons c' m' =>
      obtain ⟨⟨-, -, hb⟩, -⟩ := Memory.wfFrom_cons.1 hm'
      exact absurd (by simpa [Memory.read] using (h c'.1).symm) hb
  | cons c m ih =>
    obtain ⟨a, b⟩ := c
    obtain ⟨⟨h1, -, hb⟩, h3⟩ := Memory.wfFrom_cons.1 hm
    cases m' with
    | nil => exact absurd (by simpa [Memory.read] using h a) hb
    | cons c' m' =>
      obtain ⟨a', b'⟩ := c'
      obtain ⟨⟨h1', -, hb'⟩, h3'⟩ := Memory.wfFrom_cons.1 hm'
      have haa : a = a' := by
        rcases Nat.lt_trichotomy a a' with hlt | heq | hgt
        · refine absurd ?_ hb
          have := h a
          rwa [Memory.read, if_pos rfl, Memory.read, if_neg (by omega), Memory.read_below h3' (by omega)] at this
        · exact heq
        · refine absurd ?_ hb'
          have := (h a').symm
          rwa [Memory.read, if_pos rfl, Memory.read, if_neg (by omega), Memory.read_below h3 (by omega)] at this
      subst haa
      have hbb : b = b' := by simpa [Memory.read] using h a
      subst hbb
      congr 1
      refine ih h3 h3' fun i => ?_
      by_cases hia : a = i
      · rw [Memory.read_below h3 (by omega), Memory.read_below h3' (by omega)]
      · simpa [Memory.read, hia] using h i

/-- A read the request holds. -/
theorem readByte_of_lt {r : Request} {i : Nat} (h : i < r.S) (h' : i < Config.MAX_PAYLOAD) :
    readByte r i = .ok (r.payload.read i) := by
  simp [readByte, h, h']

/-- Reads the request holds, in one answer. -/
theorem readBytes_of_le {r : Request} {i n : Nat} (h : i + n ≤ r.S) (h' : i + n ≤ Config.MAX_PAYLOAD) :
    readBytes r i n = .ok ((List.range n).map fun k => r.payload.read (i + k)) := by
  induction n generalizing i with
  | zero => rfl
  | succ n ih =>
    rw [readBytes, readByte_of_lt (by omega) (by omega), ih (by omega) (by omega), List.range_succ_eq_map]
    simp [Function.comp_def, Nat.add_comm, Nat.add_left_comm]

/-- The header bytes of a request; the fetch never faults. -/
theorem fetchHeader_eq (r : Request) :
    fetchHeader r = .ok ((List.range (min r.S 6)).map r.payload.read) := by
  have hb : min r.S 6 ≤ Config.MAX_PAYLOAD := le_trans (Nat.min_le_right _ _) (by decide)
  have := readBytes_of_le (r := r) (i := 0) (n := min r.S 6) (by omega) (by omega)
  simpa [fetchHeader, Params.FF_ESC_HEADER] using this

end Sys2Proof.Machine
end

