-- ==== Sys2Proof/Laws/State.lean ====
section
/-! SUPPORT. One lemma per field per update of the state and of the record, each true by rfl, so that no later proof unfolds a
record update. -/

namespace Sys2Proof.Machine

@[simp] theorem Pdu.setLen_err (p : Pdu) (n : Nat) : (p.setLen n).err = p.err := rfl
@[simp] theorem Pdu.setLen_ftypeV (p : Pdu) (n : Nat) : (p.setLen n).ftypeV = p.ftypeV := rfl
@[simp] theorem Pdu.setLen_ftype (p : Pdu) (n : Nat) : (p.setLen n).ftype = p.ftype := rfl
@[simp] theorem Pdu.setLen_lenV (p : Pdu) (n : Nat) : (p.setLen n).lenV = true := rfl
@[simp] theorem Pdu.setLen_len (p : Pdu) (n : Nat) : (p.setLen n).len = BitVec.ofNat 32 n := rfl
@[simp] theorem Pdu.setLen_offV (p : Pdu) (n : Nat) : (p.setLen n).offV = p.offV := rfl
@[simp] theorem Pdu.setLen_off (p : Pdu) (n : Nat) : (p.setLen n).off = p.off := rfl
@[simp] theorem Pdu.setLen_dlen (p : Pdu) (n : Nat) : (p.setLen n).dlen = p.dlen := rfl
@[simp] theorem Pdu.setLen_seqV (p : Pdu) (n : Nat) : (p.setLen n).seqV = p.seqV := rfl
@[simp] theorem Pdu.setLen_seq (p : Pdu) (n : Nat) : (p.setLen n).seq = p.seq := rfl
@[simp] theorem Pdu.setLen_fcV (p : Pdu) (n : Nat) : (p.setLen n).fcV = p.fcV := rfl
@[simp] theorem Pdu.setLen_fcFlag (p : Pdu) (n : Nat) : (p.setLen n).fcFlag = p.fcFlag := rfl
@[simp] theorem Pdu.setLen_bs (p : Pdu) (n : Nat) : (p.setLen n).bs = p.bs := rfl
@[simp] theorem Pdu.setLen_stUs (p : Pdu) (n : Nat) : (p.setLen n).stUs = p.stUs := rfl

@[simp] theorem Pdu.setSlice_err (p : Pdu) (a b : Nat) : (p.setSlice a b).err = p.err := rfl
@[simp] theorem Pdu.setSlice_ftypeV (p : Pdu) (a b : Nat) : (p.setSlice a b).ftypeV = p.ftypeV := rfl
@[simp] theorem Pdu.setSlice_ftype (p : Pdu) (a b : Nat) : (p.setSlice a b).ftype = p.ftype := rfl
@[simp] theorem Pdu.setSlice_lenV (p : Pdu) (a b : Nat) : (p.setSlice a b).lenV = p.lenV := rfl
@[simp] theorem Pdu.setSlice_len (p : Pdu) (a b : Nat) : (p.setSlice a b).len = p.len := rfl
@[simp] theorem Pdu.setSlice_offV (p : Pdu) (a b : Nat) : (p.setSlice a b).offV = true := rfl
@[simp] theorem Pdu.setSlice_off (p : Pdu) (a b : Nat) : (p.setSlice a b).off = BitVec.ofNat 7 a := rfl
@[simp] theorem Pdu.setSlice_dlen (p : Pdu) (a b : Nat) : (p.setSlice a b).dlen = BitVec.ofNat 7 b := rfl
@[simp] theorem Pdu.setSlice_seqV (p : Pdu) (a b : Nat) : (p.setSlice a b).seqV = p.seqV := rfl
@[simp] theorem Pdu.setSlice_seq (p : Pdu) (a b : Nat) : (p.setSlice a b).seq = p.seq := rfl
@[simp] theorem Pdu.setSlice_fcV (p : Pdu) (a b : Nat) : (p.setSlice a b).fcV = p.fcV := rfl
@[simp] theorem Pdu.setSlice_fcFlag (p : Pdu) (a b : Nat) : (p.setSlice a b).fcFlag = p.fcFlag := rfl
@[simp] theorem Pdu.setSlice_bs (p : Pdu) (a b : Nat) : (p.setSlice a b).bs = p.bs := rfl
@[simp] theorem Pdu.setSlice_stUs (p : Pdu) (a b : Nat) : (p.setSlice a b).stUs = p.stUs := rfl

@[simp] theorem Pdu.setSeq_err (p : Pdu) (n : Nibble) : (p.setSeq n).err = p.err := rfl
@[simp] theorem Pdu.setSeq_ftypeV (p : Pdu) (n : Nibble) : (p.setSeq n).ftypeV = p.ftypeV := rfl
@[simp] theorem Pdu.setSeq_ftype (p : Pdu) (n : Nibble) : (p.setSeq n).ftype = p.ftype := rfl
@[simp] theorem Pdu.setSeq_lenV (p : Pdu) (n : Nibble) : (p.setSeq n).lenV = p.lenV := rfl
@[simp] theorem Pdu.setSeq_len (p : Pdu) (n : Nibble) : (p.setSeq n).len = p.len := rfl
@[simp] theorem Pdu.setSeq_offV (p : Pdu) (n : Nibble) : (p.setSeq n).offV = p.offV := rfl
@[simp] theorem Pdu.setSeq_off (p : Pdu) (n : Nibble) : (p.setSeq n).off = p.off := rfl
@[simp] theorem Pdu.setSeq_dlen (p : Pdu) (n : Nibble) : (p.setSeq n).dlen = p.dlen := rfl
@[simp] theorem Pdu.setSeq_seqV (p : Pdu) (n : Nibble) : (p.setSeq n).seqV = true := rfl
@[simp] theorem Pdu.setSeq_seq (p : Pdu) (n : Nibble) : (p.setSeq n).seq = n := rfl
@[simp] theorem Pdu.setSeq_fcV (p : Pdu) (n : Nibble) : (p.setSeq n).fcV = p.fcV := rfl
@[simp] theorem Pdu.setSeq_fcFlag (p : Pdu) (n : Nibble) : (p.setSeq n).fcFlag = p.fcFlag := rfl
@[simp] theorem Pdu.setSeq_bs (p : Pdu) (n : Nibble) : (p.setSeq n).bs = p.bs := rfl
@[simp] theorem Pdu.setSeq_stUs (p : Pdu) (n : Nibble) : (p.setSeq n).stUs = p.stUs := rfl

@[simp] theorem Pdu.setFlow_err (p : Pdu) (a b c : Nat) : (p.setFlow a b c).err = p.err := rfl
@[simp] theorem Pdu.setFlow_ftypeV (p : Pdu) (a b c : Nat) : (p.setFlow a b c).ftypeV = p.ftypeV := rfl
@[simp] theorem Pdu.setFlow_ftype (p : Pdu) (a b c : Nat) : (p.setFlow a b c).ftype = p.ftype := rfl
@[simp] theorem Pdu.setFlow_lenV (p : Pdu) (a b c : Nat) : (p.setFlow a b c).lenV = p.lenV := rfl
@[simp] theorem Pdu.setFlow_len (p : Pdu) (a b c : Nat) : (p.setFlow a b c).len = p.len := rfl
@[simp] theorem Pdu.setFlow_offV (p : Pdu) (a b c : Nat) : (p.setFlow a b c).offV = p.offV := rfl
@[simp] theorem Pdu.setFlow_off (p : Pdu) (a b c : Nat) : (p.setFlow a b c).off = p.off := rfl
@[simp] theorem Pdu.setFlow_dlen (p : Pdu) (a b c : Nat) : (p.setFlow a b c).dlen = p.dlen := rfl
@[simp] theorem Pdu.setFlow_seqV (p : Pdu) (a b c : Nat) : (p.setFlow a b c).seqV = p.seqV := rfl
@[simp] theorem Pdu.setFlow_seq (p : Pdu) (a b c : Nat) : (p.setFlow a b c).seq = p.seq := rfl
@[simp] theorem Pdu.setFlow_fcV (p : Pdu) (a b c : Nat) : (p.setFlow a b c).fcV = true := rfl
@[simp] theorem Pdu.setFlow_fcFlag (p : Pdu) (a b c : Nat) : (p.setFlow a b c).fcFlag = BitVec.ofNat 2 a := rfl
@[simp] theorem Pdu.setFlow_bs (p : Pdu) (a b c : Nat) : (p.setFlow a b c).bs = BitVec.ofNat 8 b := rfl
@[simp] theorem Pdu.setFlow_stUs (p : Pdu) (a b c : Nat) : (p.setFlow a b c).stUs = BitVec.ofNat 17 c := rfl

@[simp] theorem Pdu.unset_err : Pdu.unset.err = 0 := rfl
@[simp] theorem Pdu.unset_ftypeV : Pdu.unset.ftypeV = false := rfl
@[simp] theorem Pdu.unset_ftype : Pdu.unset.ftype = 0 := rfl
@[simp] theorem Pdu.unset_lenV : Pdu.unset.lenV = false := rfl
@[simp] theorem Pdu.unset_len : Pdu.unset.len = 0 := rfl
@[simp] theorem Pdu.unset_offV : Pdu.unset.offV = false := rfl
@[simp] theorem Pdu.unset_off : Pdu.unset.off = 0 := rfl
@[simp] theorem Pdu.unset_dlen : Pdu.unset.dlen = 0 := rfl
@[simp] theorem Pdu.unset_seqV : Pdu.unset.seqV = false := rfl
@[simp] theorem Pdu.unset_seq : Pdu.unset.seq = 0 := rfl
@[simp] theorem Pdu.unset_fcV : Pdu.unset.fcV = false := rfl
@[simp] theorem Pdu.unset_fcFlag : Pdu.unset.fcFlag = 0 := rfl
@[simp] theorem Pdu.unset_bs : Pdu.unset.bs = 0 := rfl
@[simp] theorem Pdu.unset_stUs : Pdu.unset.stUs = 0 := rfl

@[simp] theorem okRecord_err (c : FrameType) : (okRecord c).err = okCode := rfl
@[simp] theorem okRecord_ftypeV (c : FrameType) : (okRecord c).ftypeV = true := rfl
@[simp] theorem okRecord_ftype (c : FrameType) : (okRecord c).ftype = c.code := rfl
@[simp] theorem okRecord_lenV (c : FrameType) : (okRecord c).lenV = false := rfl
@[simp] theorem okRecord_len (c : FrameType) : (okRecord c).len = 0 := rfl
@[simp] theorem okRecord_offV (c : FrameType) : (okRecord c).offV = false := rfl
@[simp] theorem okRecord_off (c : FrameType) : (okRecord c).off = 0 := rfl
@[simp] theorem okRecord_dlen (c : FrameType) : (okRecord c).dlen = 0 := rfl
@[simp] theorem okRecord_seqV (c : FrameType) : (okRecord c).seqV = false := rfl
@[simp] theorem okRecord_seq (c : FrameType) : (okRecord c).seq = 0 := rfl
@[simp] theorem okRecord_fcV (c : FrameType) : (okRecord c).fcV = false := rfl
@[simp] theorem okRecord_fcFlag (c : FrameType) : (okRecord c).fcFlag = 0 := rfl
@[simp] theorem okRecord_bs (c : FrameType) : (okRecord c).bs = 0 := rfl
@[simp] theorem okRecord_stUs (c : FrameType) : (okRecord c).stUs = 0 := rfl

@[simp] theorem errorRecord_none_err (e : PduError) : (errorRecord none e).err = e.code := rfl
@[simp] theorem errorRecord_none_ftypeV (e : PduError) : (errorRecord none e).ftypeV = false := rfl
@[simp] theorem errorRecord_none_ftype (e : PduError) : (errorRecord none e).ftype = 0 := rfl
@[simp] theorem errorRecord_none_lenV (e : PduError) : (errorRecord none e).lenV = false := rfl
@[simp] theorem errorRecord_none_len (e : PduError) : (errorRecord none e).len = 0 := rfl
@[simp] theorem errorRecord_none_offV (e : PduError) : (errorRecord none e).offV = false := rfl
@[simp] theorem errorRecord_none_off (e : PduError) : (errorRecord none e).off = 0 := rfl
@[simp] theorem errorRecord_none_dlen (e : PduError) : (errorRecord none e).dlen = 0 := rfl
@[simp] theorem errorRecord_none_seqV (e : PduError) : (errorRecord none e).seqV = false := rfl
@[simp] theorem errorRecord_none_seq (e : PduError) : (errorRecord none e).seq = 0 := rfl
@[simp] theorem errorRecord_none_fcV (e : PduError) : (errorRecord none e).fcV = false := rfl
@[simp] theorem errorRecord_none_fcFlag (e : PduError) : (errorRecord none e).fcFlag = 0 := rfl
@[simp] theorem errorRecord_none_bs (e : PduError) : (errorRecord none e).bs = 0 := rfl
@[simp] theorem errorRecord_none_stUs (e : PduError) : (errorRecord none e).stUs = 0 := rfl

@[simp] theorem errorRecord_some_err (c : FrameType) (e : PduError) : (errorRecord (some c) e).err = e.code := rfl
@[simp] theorem errorRecord_some_ftypeV (c : FrameType) (e : PduError) : (errorRecord (some c) e).ftypeV = true := rfl
@[simp] theorem errorRecord_some_ftype (c : FrameType) (e : PduError) : (errorRecord (some c) e).ftype = c.code := rfl
@[simp] theorem errorRecord_some_lenV (c : FrameType) (e : PduError) : (errorRecord (some c) e).lenV = false := rfl
@[simp] theorem errorRecord_some_len (c : FrameType) (e : PduError) : (errorRecord (some c) e).len = 0 := rfl
@[simp] theorem errorRecord_some_offV (c : FrameType) (e : PduError) : (errorRecord (some c) e).offV = false := rfl
@[simp] theorem errorRecord_some_off (c : FrameType) (e : PduError) : (errorRecord (some c) e).off = 0 := rfl
@[simp] theorem errorRecord_some_dlen (c : FrameType) (e : PduError) : (errorRecord (some c) e).dlen = 0 := rfl
@[simp] theorem errorRecord_some_seqV (c : FrameType) (e : PduError) : (errorRecord (some c) e).seqV = false := rfl
@[simp] theorem errorRecord_some_seq (c : FrameType) (e : PduError) : (errorRecord (some c) e).seq = 0 := rfl
@[simp] theorem errorRecord_some_fcV (c : FrameType) (e : PduError) : (errorRecord (some c) e).fcV = false := rfl
@[simp] theorem errorRecord_some_fcFlag (c : FrameType) (e : PduError) : (errorRecord (some c) e).fcFlag = 0 := rfl
@[simp] theorem errorRecord_some_bs (c : FrameType) (e : PduError) : (errorRecord (some c) e).bs = 0 := rfl
@[simp] theorem errorRecord_some_stUs (c : FrameType) (e : PduError) : (errorRecord (some c) e).stUs = 0 := rfl

@[simp] theorem State.present_req (s : State) (r : Request) : (s.present r).req = r := rfl
@[simp] theorem State.present_pdu (s : State) (r : Request) : (s.present r).pdu = s.pdu := rfl
@[simp] theorem State.present_pduValid (s : State) (r : Request) : (s.present r).pduValid = s.pduValid := rfl

@[simp] theorem State.assertReset_req (s : State) : (s.assertReset).req = s.req := rfl
@[simp] theorem State.assertReset_pdu (s : State) : (s.assertReset).pdu = Pdu.unset := rfl
@[simp] theorem State.assertReset_pduValid (s : State) : (s.assertReset).pduValid = false := rfl

@[simp] theorem State.withFetchWord_pdu (s : State) (n w : Nat) : (s.withFetchWord n w).pdu = s.pdu := rfl
@[simp] theorem State.withFetchWord_pduValid (s : State) (n w : Nat) : (s.withFetchWord n w).pduValid = s.pduValid := rfl

@[simp] theorem Request.withHeader_id (r : Request) (c : Bool) (bs : List Byte) : (r.withHeader c bs).id = r.id := rfl
@[simp] theorem Request.withHeader_ext (r : Request) (c : Bool) (bs : List Byte) : (r.withHeader c bs).ext = r.ext := rfl
@[simp] theorem Request.withHeader_fd (r : Request) (c : Bool) (bs : List Byte) : (r.withHeader c bs).fd = r.fd := rfl

end Sys2Proof.Machine
end

