-- ==== Sys2Proof/Laws/Ops.lean ====
section
/-! SUPPORT. What the shared operations of a transaction can do, each said once: the two endings, the operand reads, the First
Frame tail, the success records. -/

namespace Sys2Proof.Machine

theorem respond_of_admitted {s : State} (h : s.req.Admitted) (r : Pdu) :
    respond r s = .next { s with pdu := r, pduValid := true } :=
  if_pos h

theorem respond_of_not_admitted {s : State} (h : ¬ s.req.Admitted) (r : Pdu) :
    respond r s = .refused .sizeOutOfContract :=
  if_neg h

/-- The one way an ending answers a next state. -/
theorem respond_eq_next {r : Pdu} {s t : State} :
    respond r s = .next t ↔ s.req.Admitted ∧ t = { s with pdu := r, pduValid := true } := by
  by_cases h : s.req.Admitted
  · rw [respond_of_admitted h]
    constructor
    · intro e
      cases e
      exact ⟨h, rfl⟩
    · rintro ⟨-, rfl⟩
      rfl
  · simp [respond_of_not_admitted h, h]

theorem respond_ne_fault (r : Pdu) (s : State) (f : Fault) : respond r s ≠ .fault f := by
  by_cases h : s.req.Admitted
  · simp [respond_of_admitted h]
  · simp [respond_of_not_admitted h]

/-- `raise` is an ending with the error record. -/
theorem raise_eq_respond (cls : Option FrameType) (e : PduError) (s : State) :
    raise cls e s = respond (errorRecord cls e) s :=
  rfl

@[simp] theorem withOperand_some {α : Type} (v : α) (k : α → Result) : withOperand (some v) k = k v := rfl

@[simp] theorem withOperand_none {α : Type} (k : α → Result) : withOperand none k = .fault .readBeyondPayload := rfl

/-- An operand that goes on is present. -/
theorem withOperand_eq_next {α : Type} {o : Option α} {k : α → Result} {t : State} (h : withOperand o k = .next t) :
    ∃ v, o = some v ∧ k v = .next t := by
  cases o with
  | none => simp at h
  | some v => exact ⟨v, rfl, h⟩

/-- The FF tail ends in one of three records, by the offset and the bound. -/
theorem ffFinish_eq_respond (adj base L : Nat) (s : State) :
    ffFinish adj base L s = respond
      (if ffOffset adj base s.req.ext > s.req.S then errorRecord (some .ff) .truncatedHeader
       else if L < minLen s.req.S s.req.ext then errorRecord (some .ff) .lengthTooSmall
       else ffRecord s.req.S (ffOffset adj base s.req.ext) L) s := by
  simp only [ffFinish, raise]
  split
  · rfl
  · split <;> rfl

/-- The FF bound is never below 7 (R25). -/
theorem seven_le_minLen (S : Nat) (ext : Bool) : 7 ≤ minLen S ext := by
  by_cases h : S > Params.SHORT_FRAME_CEILING
  · have h8 : S > 8 := h
    cases ext <;> simp [minLen, h] <;> omega
  · cases ext <;> simp [minLen, h, Params.FF_MIN_EXT, Params.FF_MIN_STD]

/-- Separation times stay in the range R25 gives. -/
theorem stMicros_le {st : Byte} {us : Nat} (h : stMicros st = some us) : us ≤ 127000 := by
  by_cases h1 : st.toNat ≤ Params.ST_MS_MAX
  · have : st.toNat ≤ 127 := h1
    simp only [stMicros, h1, if_true, Option.some.injEq] at h
    omega
  · by_cases h2 : Params.ST_US_LO ≤ st.toNat ∧ st.toNat ≤ Params.ST_US_HI
    · simp only [stMicros, h1, h2, and_self, if_true, if_false, Option.some.injEq] at h
      have := st.isLt
      omega
    · simp [stMicros, h1, h2] at h

end Sys2Proof.Machine
end

