-- ==== Sys2Proof/Laws/PerInstr.lean ====
section
/-! SUPPORT. Facts of every header as syntax, one lemma per constructor: the length of a header that holds all its bytes (R70, R80)
and the type nibble its first byte carries (R71). -/

namespace Sys2Proof.Laws.HeaderShape

open Sys2Proof.Machine

/-- The frame type a header is classified as; none for the invalid types. -/
def frameTypeOf : Instr → Option FrameType
  | .sfShort _ => some .sf
  | .sfEsc _ => some .sf
  | .ffShort _ _ => some .ff
  | .ffEsc _ => some .ff
  | .cf _ => some .cf
  | .fc _ _ _ => some .fc
  | .invalidType47 _ => none
  | .invalidType8F _ => none

/-- The header's first byte is classified as its own type, and the header is at most six bytes long. -/
def Statement (i : Instr) : Prop :=
  (encode i).head?.bind classify = frameTypeOf i ∧ 1 ≤ (encode i).length ∧ (encode i).length ≤ 6

theorem sfShort (len : Nibble) : Statement (.sfShort len) :=
  ⟨classify_sf len, by simp [encode], by simp [encode]⟩

theorem sfEsc (len : Option Byte) : Statement (.sfEsc len) := by
  cases len <;> exact ⟨classify_sf 0, by simp [encode], by simp [encode, encodeByte]⟩

theorem ffShort (hi : Nibble) (lo : Option Byte) : Statement (.ffShort hi lo) := by
  cases lo <;> exact ⟨classify_ff hi, by simp [encode], by simp [encode, encodeByte]⟩

theorem ffEsc (len : Option Word32) : Statement (.ffEsc len) := by
  cases len <;> exact ⟨classify_ff 0, by simp [encode], by simp [encode, encodeWord32]⟩

theorem cf (seq : Nibble) : Statement (.cf seq) :=
  ⟨classify_cf seq, by simp [encode], by simp [encode]⟩

theorem fc (flag : Nibble) (bs st : Option Byte) : Statement (.fc flag bs st) := by
  cases bs <;> cases st <;> exact ⟨classify_fc flag, by simp [encode], by simp [encode, encodeByte]⟩

theorem invalidType47 (x : BitVec 6) : Statement (.invalidType47 x) :=
  ⟨classify_invalid47 x, by simp [encode], by simp [encode]⟩

theorem invalidType8F (x : BitVec 7) : Statement (.invalidType8F x) :=
  ⟨classify_invalid8F x, by simp [encode], by simp [encode]⟩

end Sys2Proof.Laws.HeaderShape
end

