-- ==== Sys2Proof/Laws/Step.lean ====
section
/-! SUPPORT. What a step is, said once: the refusal of a size outside the contract, and for every other request the one meaning it
runs, with the operands read from the payload. -/

namespace Sys2Proof.Machine

/-- The instruction of a request, read from its payload: the form by byte 0 and the zero tests (R79), each operand absent
where the payload ends before it. -/
def instrOf (r : Request) : Instr :=
  let b0 := r.payload.read 0
  let b1 := if 2 ≤ r.S then some (r.payload.read 1) else none
  let b2 := if 3 ≤ r.S then some (r.payload.read 2) else none
  match classify b0 with
  | some .sf => if (nib b0).2 = 0 then .sfEsc b1 else .sfShort (nib b0).2
  | some .ff =>
    if 2 ≤ r.S ∧ f12 (nib b0).2 (r.payload.read 1) = 0 then
      .ffEsc (if 6 ≤ r.S then
        some (word32 (r.payload.read 2) (r.payload.read 3) (r.payload.read 4) (r.payload.read 5)) else none)
    else .ffShort (nib b0).2 b1
  | some .cf => .cf (nib b0).2
  | some .fc => .fc (nib b0).2 b1 b2
  | none => if b0.getLsbD 7 then .invalidType8F (b0.extractLsb' 0 7) else .invalidType47 (b0.extractLsb' 0 6)

theorem step_of_not_admitted {s : State} (h : ¬ s.req.Admitted) : step s = .refused .sizeOutOfContract :=
  if_neg h

/-- What the decoder reads from a payload that has a byte 0. -/
theorem decode_payload (r : Request) (h : 1 ≤ r.S) :
    ∃ rest, decode ((List.range (min r.S 6)).map r.payload.read) = .ok (instrOf r, rest) := by
  have hcases : r.S = 1 ∨ r.S = 2 ∨ r.S = 3 ∨ r.S = 4 ∨ r.S = 5 ∨ 6 ≤ r.S := by omega
  have h6 : 6 ≤ r.S → min r.S 6 = 6 ∧ 2 ≤ r.S ∧ 3 ≤ r.S := by omega
  rcases hc : classify (r.payload.read 0) with _ | _ | _ | _ | _
  · by_cases h7 : (r.payload.read 0)[7] = true <;>
      rcases hcases with hS | hS | hS | hS | hS | hS <;>
      simp [instrOf, decode, decodeInvalid, List.range, List.range.loop, hc, hS, h7]
  · by_cases h0 : (nib (r.payload.read 0)).2 = 0#4 <;>
      rcases hcases with hS | hS | hS | hS | hS | hS <;>
      simp [instrOf, decode, decodeSf, List.range, List.range.loop, hc, hS, h0, h6]
  · by_cases h0 : f12 (nib (r.payload.read 0)).2 (r.payload.read 1) = 0#12 <;>
      rcases hcases with hS | hS | hS | hS | hS | hS <;>
      simp [instrOf, decode, decodeFf, decodeFfEsc, List.range, List.range.loop, hc, hS, h0, h6]
  · rcases hcases with hS | hS | hS | hS | hS | hS <;>
      simp [instrOf, decode, List.range, List.range.loop, hc, hS]
  · rcases hcases with hS | hS | hS | hS | hS | hS <;>
      simp [instrOf, decode, decodeFc, List.range, List.range.loop, hc, hS, h6]

/-- A step on an admitted request runs the instruction of that request. -/
theorem step_of_admitted {s : State} (h : s.req.Admitted) : step s = exec (instrOf s.req) s := by
  obtain ⟨rest, hd⟩ := decode_payload s.req h.1
  rw [step, if_pos h, fetchHeader_eq]
  simp only [hd]

end Sys2Proof.Machine
end

