-- ==== Sys2Proof/Tests/Slice0.lean ====
section
/-! SUPPORT. The model's own tests: the refusals of WellFormed, words decoded from the layouts of spec/30_encoding.md, at most two
one-transaction vectors of spec/95_test_vectors.md per row, and for every statement with hypotheses concrete values that meet
all of them, at the boundaries of each clause. -/

namespace Sys2Proof.Tests

open Sys2Proof.Machine

/-- A request after reset, `std[..]` or `ext[..]` (R83). -/
def given (ext : Bool) (bytes : List Byte) : State :=
  State.reset.present (Request.ofBytes ext bytes)

/-- The record an outcome leaves. -/
def recordOf : Result → Option Pdu
  | .next t => some t.pdu
  | .fault _ => none
  | .refused _ => none

/-- The record the step leaves for a request. -/
def answer (ext : Bool) (bytes : List Byte) : Option Pdu :=
  recordOf (step (given ext bytes))

/-- `{err=E, ftype=T}` of spec/95_test_vectors.md. -/
def failed (e : BitVec 3) (t : BitVec 2) : Pdu :=
  { Pdu.unset with err := e, ftypeV := true, ftype := t }

/-- `{err=OK, ftype=T, len=L, off=O, dlen=D}` of spec/95_test_vectors.md. -/
def data (t : BitVec 2) (L : BitVec 32) (o d : BitVec 7) : Pdu :=
  { Pdu.unset with ftypeV := true, ftype := t, lenV := true, len := L, offV := true, off := o, dlen := d }

/-! WellFormed: one ill-formed term for each check. -/

theorem test_wf_refuses_short_length_zero : (Instr.sfShort 0).wf = false := by decide
theorem test_wf_refuses_twelve_bit_zero : (Instr.ffShort 0 (some 0)).wf = false := by decide
theorem test_wf_refuses_missing_middle_byte : (Instr.fc 0 none (some 0)).wf = false := by decide

/-! Decode: every constructor's word, bit by bit from R72 to R74 and the rows of the table. -/

theorem test_decode_sfShort : decode [0b00000101] = .ok (.sfShort 5, []) := by rfl
theorem test_decode_sfEsc : decode [0b00000000, 0b00111110] = .ok (.sfEsc (some 62), []) := by rfl
theorem test_decode_sfEsc_truncated : decode [0b00000000] = .ok (.sfEsc none, []) := by rfl
theorem test_decode_ffShort : decode [0b00010001, 0b00000010, 0xAA] = .ok (.ffShort 1 (some 2), [0xAA]) := by rfl
theorem test_decode_ffShort_zero_low_byte : decode [0b00010001, 0] = .ok (.ffShort 1 (some 0), []) := by rfl
theorem test_decode_ffEsc :
    decode [0b00010000, 0, 0x01, 0x02, 0x03, 0x04, 0xAA] = .ok (.ffEsc (some 0x01020304), [0xAA]) := by rfl
theorem test_decode_ffEsc_truncated : decode [0b00010000, 0, 0x01] = .ok (.ffEsc none, [0x01]) := by rfl
theorem test_decode_cf : decode [0b00100011, 0x01] = .ok (.cf 3, [0x01]) := by rfl
theorem test_decode_fc : decode [0b00110010, 0xFF, 0xF1] = .ok (.fc 2 (some 0xFF) (some 0xF1), []) := by rfl
theorem test_decode_invalidType47 : decode [0b01000001] = .ok (.invalidType47 1, []) := by rfl
theorem test_decode_invalidType8F : decode [0b10000001] = .ok (.invalidType8F 1, []) := by rfl
theorem test_decode_refuses_no_bytes : decode [] = .error .emptyPayload := by rfl

/-- Words of the table as it numbers them: 16-bit words big-endian, 8 and 24 bits from byte 0 (log 5). -/
theorem test_table_words :
    decodeTableWord 8 0x07 = some (.sfShort 7) ∧ decodeTableWord 16 0x0006 = some (.sfEsc (some 6)) ∧
    decodeTableWord 16 0x100A = some (.ffShort 0 (some 10)) ∧ decodeTableWord 16 0x1000 = some (.ffEsc (some 0)) ∧
    decodeTableWord 48 0x5678_1234_1000 = some (.ffEsc (some 0x12345678)) ∧ decodeTableWord 8 0x23 = some (.cf 3) ∧
    decodeTableWord 24 0x7F0A31 = some (.fc 1 (some 0x0A) (some 0x7F)) ∧ decodeTableWord 8 0x40 = some (.invalidType47 0) ∧
    decodeTableWord 8 0xFF = some (.invalidType8F 0x7F) := by decide

/-- A laid Flow Control word runs as the first instruction after reset. -/
theorem test_laid_word_runs :
    recordOf (step (State.reset.withFetchWord 24 0x010530)) =
      some { Pdu.unset with ftypeV := true, ftype := 3, fcV := true, bs := 5, stUs := 1000 } := by decide

/-! One transaction each, from spec/95_test_vectors.md. -/

/-- SF8: the slice of a padded frame is its last bytes. -/
theorem test_sfShort_padded : answer false [0x02, 0xAA, 0xBB, 0xCC, 0xCC, 0xCC, 0xCC, 0xCC] = some (data 0 2 6 2) := by decide
/-- SF3: length 7 under extended addressing. -/
theorem test_sfShort_seven_extended : answer true [7, 0x11, 0x22, 0x33, 0x44, 0x55, 0x66, 0x77] = some (failed 3 0) := by decide
/-- SE6. -/
theorem test_sfEsc_seven_extended : answer true [0, 7, 1, 2, 3, 4, 5, 6, 7] = some (data 0 7 2 7) := by decide
/-- SE1. -/
theorem test_sfEsc_truncated : answer false [0] = some (failed 2 0) := by decide
/-- FF4. -/
theorem test_ffShort_bound_extended : answer true [0x10, 7, 0, 0, 0, 0, 0, 0] = some (data 1 7 2 6) := by decide
/-- FF18: the bound scales with the frame. -/
theorem test_ffShort_bound_scales : answer false [0x10, 0x0A, 0, 0, 0, 0, 0, 0, 0, 0, 0, 0] = some (failed 4 1) := by decide
/-- FF2, W4. -/
theorem test_ffEsc_4096 : answer false [0x10, 0, 0, 0, 0x10, 0, 0xAA, 0xBB] = some (data 1 4096 6 2) := by decide
/-- FF21: truncation comes before the length check. -/
theorem test_ffEsc_truncated_first : answer false [0x10, 0, 0, 0, 0] = some (failed 2 1) := by decide
/-- FA4: the other value of the offset adjustment. -/
theorem test_ffEsc_adjustment_one :
    recordOf (ffEscWith 1 (some 4096) (given true [0x10, 0, 0, 0, 0x10, 0, 0xAA, 0xBB])) = some (data 1 4096 7 1) := by decide
/-- CF1, W8. -/
theorem test_cf : answer false [0x23, 1, 2, 3, 4, 5, 6, 7] =
    some { Pdu.unset with ftypeV := true, ftype := 2, seqV := true, seq := 3, offV := true, off := 1, dlen := 7 } := by decide
/-- FC3. -/
theorem test_fc : answer false [0x32, 0xFF, 0xF1] =
    some { Pdu.unset with ftypeV := true, ftype := 3, fcV := true, fcFlag := 2, bs := 0xFF, stUs := 100 } := by decide
/-- FC10: the flag is checked before the separation time. -/
theorem test_fc_flag_first : answer false [0x3F, 0x00, 0x80] = some (failed 5 3) := by decide
/-- CL8. -/
theorem test_invalidType47 : answer true [0x7E, 1, 2] = some { Pdu.unset with err := 1 } := by decide
/-- CL6. -/
theorem test_invalidType8F : answer false [0xFF, 0] = some { Pdu.unset with err := 1 } := by decide
/-- CL9: an empty payload is refused. -/
theorem test_empty_payload_refused : step (given false []) = .refused .sizeOutOfContract := by rfl
/-- CL10: a size of 65 is refused. -/
theorem test_size_65_refused : step (given false (List.replicate 65 0)) = .refused .sizeOutOfContract := by rfl
/-- The payload list keeps its canonical form: a zero byte is not listed. -/
theorem test_memory_write_zero_removes : Memory.write (Memory.write [(2, 9)] 1 7) 2 0 = [(1, 7)] := by decide

/-! Witnesses: values that meet the hypotheses of each statement. -/

theorem witness_StepKeepsInvariant : (given false [3, 1, 2, 3]).Inv ∧ ∃ t, step (given false [3, 1, 2, 3]) = .next t :=
  ⟨⟨by decide, fun _ => rfl, fun h => by cases h⟩, _, rfl⟩

theorem witness_StepRunsDecodedHeader :
    (given false [0x23, 1]).req.Admitted ∧
      decode ((List.range (min (given false [0x23, 1]).req.S 6)).map (given false [0x23, 1]).req.payload.read) =
        .ok (.cf 3, [1]) :=
  ⟨by decide, rfl⟩

theorem witness_EncodedHeadersDecodeBack :
    (Instr.sfShort 15).wf = true ∧ (Instr.ffShort 0 (some 1)).wf = true ∧ (Instr.fc 15 (some 0) none).wf = true ∧
      (∀ hi, Instr.ffEsc (some 0) ≠ .ffShort hi none) ∧ Instr.ffEsc (some 0) ≠ .sfEsc none ∧
      Instr.ffEsc (some 0) ≠ .ffEsc none ∧ ∀ f bs, Instr.ffEsc (some 0) ≠ .fc f bs none :=
  ⟨by decide, by decide, by decide, fun _ => by simp, by decide, by decide, fun _ _ => by simp⟩

theorem witness_DecodedBytesAreTheEncoding : decode [0x10, 0, 1] = .ok (.ffEsc none, [1]) := by rfl

/-- Both ends of every range of the opcode map. -/
theorem witness_OpcodeMap :
    decode [0x00] = .ok (.sfEsc none, []) ∧ decode [0x01] = .ok (.sfShort 1, []) ∧ decode [0x0F] = .ok (.sfShort 15, []) ∧
    decode [0x10, 0x00] = .ok (.ffEsc none, []) ∧ decode [0x10, 0x01] = .ok (.ffShort 0 (some 1), []) ∧
    decode [0x11, 0x00] = .ok (.ffShort 1 (some 0), []) ∧ decode [0x1F] = .ok (.ffShort 15 none, []) ∧
    decode [0x20] = .ok (.cf 0, []) ∧ decode [0x2F] = .ok (.cf 15, []) ∧
    decode [0x30] = .ok (.fc 0 none none, []) ∧ decode [0x3F, 1] = .ok (.fc 15 (some 1) none, []) ∧
    decode [0x40] = .ok (.invalidType47 0, []) ∧ decode [0x7F] = .ok (.invalidType47 63, []) ∧
    decode [0x80] = .ok (.invalidType8F 0, []) ∧ decode [0xFF] = .ok (.invalidType8F 127, []) := by
  refine ⟨rfl, rfl, rfl, rfl, rfl, rfl, rfl, rfl, rfl, rfl, rfl, rfl, rfl, rfl, rfl⟩

theorem witness_ClassifierIsTotalOnTheHighNibble :
    (0x0F : Byte).toNat / 16 = 0 ∧ (0x1F : Byte).toNat / 16 = 1 ∧ (0x2F : Byte).toNat / 16 = 2 ∧ (0x3F : Byte).toNat / 16 = 3 ∧
      4 ≤ (0x40 : Byte).toNat / 16 ∧ (given false [0x40]).req.Admitted ∧
      4 ≤ ((given false [0x40]).req.payload.read 0).toNat / 16 := by decide

theorem witness_InvalidTypeRowsAnswer : (given true [0x40]).req.Admitted := by decide

/-- The accepted lengths 1 and 7, and each reason to fail. -/
theorem witness_SfShortResponse :
    ((given false [1, 0]).req.Admitted ∧ (1 : Nibble) ≠ 0 ∧ (1 : Nibble).toNat + 1 ≤ (given false [1, 0]).req.S) ∧
    ((given false [7, 0, 0, 0, 0, 0, 0, 0]).req.Admitted ∧ (7 : Nibble).toNat + 1 ≤ (given false [7, 0, 0, 0, 0, 0, 0, 0]).req.S ∧
      ¬((given false [7, 0, 0, 0, 0, 0, 0, 0]).req.ext = true ∧ (7 : Nibble).toNat = 7)) ∧
    (8 : Nibble).toNat > 7 ∧ (1 : Nibble).toNat + 1 > (given false [1]).req.S ∧
    ((given true [7]).req.ext = true ∧ (7 : Nibble).toNat = 7) := by decide

theorem witness_SfEscResponse :
    ((given false [0]).req.Admitted ∧ (given false [0]).req.S < 2) ∧
    ((given false [0, 6, 1, 2, 3, 4, 5, 6]).req.Admitted ∧ 6 ≤ (6 : Byte).toNat ∧
      ¬((given false [0, 6, 1, 2, 3, 4, 5, 6]).req.ext = false ∧ (6 : Byte).toNat = 7) ∧
      (6 : Byte).toNat + 2 ≤ (given false [0, 6, 1, 2, 3, 4, 5, 6]).req.S) ∧
    (2 ≤ (given false [0, 5]).req.S ∧ (5 : Byte).toNat < 6) ∧
    ((given false [0, 7]).req.ext = false ∧ (7 : Byte).toNat = 7) ∧ (8 : Byte).toNat + 2 > (given false [0, 8]).req.S := by decide

theorem witness_SfDataIsTheTrailingBytes :
    ∃ t, step (given false [3, 0, 0xA1, 0xA2, 0xA3]) = .next t ∧ t.pdu.err = okCode ∧ t.pdu.ftype = FrameType.code .sf ∧
      dataSlice (given false [3, 0, 0xA1, 0xA2, 0xA3]).req t.pdu = .ok [0xA1, 0xA2, 0xA3] :=
  ⟨_, rfl, by decide, by decide, rfl⟩

theorem witness_SfFormByLowNibbleOnly :
    (given true [0x0F]).req.Admitted ∧ ((given true [0x0F]).req.payload.read 0).toNat / 16 = 0 ∧
      ((given true [0x0F]).req.payload.read 0).toNat % 16 ≠ 0 ∧ (given true [0x00]).req.Admitted ∧
      ((given true [0x00]).req.payload.read 0).toNat / 16 = 0 ∧ ((given true [0x00]).req.payload.read 0).toNat % 16 = 0 := by decide

theorem witness_SfRoundTrip : 1 ≤ ([0x41] : List Byte).length ∧ ([1, 2, 3, 4, 5, 6, 7] : List Byte).length ≤ 7 := by decide

theorem witness_MinimumLengthBound : 8 ≤ 8 ∧ 8 < 9 := by decide

/-- The least accepted length, the truncated size, and the greatest refused length. -/
theorem witness_FfShortResponse :
    ((given false [0x10, 8]).req.Admitted ∧ 2 ≤ (given false [0x10, 8]).req.S ∧
      minLen (given false [0x10, 8]).req.S (given false [0x10, 8]).req.ext ≤ (0 : Nibble).toNat * 256 + (8 : Byte).toNat) ∧
    ((given true [0x10]).req.Admitted ∧ (given true [0x10]).req.S < 2) ∧
    (0 : Nibble).toNat * 256 + (7 : Byte).toNat < minLen (given false [0x10, 7]).req.S (given false [0x10, 7]).req.ext := by decide

theorem witness_FfEscResponse :
    ((given true [0x10, 0, 0, 0, 0, 7]).req.Admitted ∧
      6 + (if (given true [0x10, 0, 0, 0, 0, 7]).req.ext = true then Params.FF_EXT_OFFSET_ADJ else 0) ≤
        (given true [0x10, 0, 0, 0, 0, 7]).req.S ∧
      minLen (given true [0x10, 0, 0, 0, 0, 7]).req.S (given true [0x10, 0, 0, 0, 0, 7]).req.ext ≤ (7 : Word32).toNat) ∧
    ((given true [0x10, 0, 0, 0, 0]).req.Admitted ∧ (given true [0x10, 0, 0, 0, 0]).req.S < 6) ∧
    (6 : Word32).toNat < minLen (given true [0x10, 0, 0, 0, 0, 6]).req.S (given true [0x10, 0, 0, 0, 0, 6]).req.ext := by decide

theorem witness_FfAcceptedLengths :
    (given false [0x10, 8]).req.Admitted ∧ 2 ≤ (given false [0x10, 8]).req.S ∧
      6 ≤ (given false [0x10, 0, 0, 0, 0, 8]).req.S := by decide

theorem witness_FfOffsetFollowsTheAdjustment :
    (∃ t, ffShortWith 1 0 (some 10) (given true [0x10, 10, 0, 1, 2, 3, 4, 5]) = .next t ∧ t.pdu.err = okCode) ∧
    (∃ t, ffEscWith 1 (some 4096) (given true [0x10, 0, 0, 0, 0x10, 0, 1]) = .next t ∧ t.pdu.err = okCode) :=
  ⟨⟨_, rfl, by decide⟩, _, rfl, by decide⟩

theorem witness_CfResponse : (given true [0x2F]).req.Admitted := by decide

theorem witness_HeaderOfOneByteReadsNoOther :
    (given true [0x20, 1]).req.S = (given false [0x20, 2]).req.S ∧
    (given true [0x20, 1]).req.payload.read 0 = (given false [0x20, 2]).req.payload.read 0 ∧
    ((given true [0x20, 1]).req.payload.read 0).toNat / 16 = 2 ∧
    1 ≤ ((given true [0x0F, 1]).req.payload.read 0).toNat ∧ ((given true [0x0F, 1]).req.payload.read 0).toNat ≤ 15 ∧
    (given true [0x0F, 1]).req.payload.read 0 = (given true [0x0F, 2]).req.payload.read 0 := by decide

/-- Each clause of FC at a boundary: size 2 and 4, flag 2 and 3, separation times 0x7F, 0x80, 0xF0, 0xF1, 0xF9, 0xFA. -/
theorem witness_FcResponse :
    ((given false [0x30, 0]).req.Admitted ∧ (given false [0x30, 0]).req.S ≠ 3 ∧ (given false [0x30, 0, 0, 0]).req.S ≠ 3) ∧
    ((given false [0x33, 0, 0]).req.Admitted ∧ (given false [0x33, 0, 0]).req.S = 3 ∧ 2 < (3 : Nibble).toNat) ∧
    (2 : Nibble).toNat ≤ 2 ∧ (0x7F : Byte).toNat ≤ 0x7F ∧ 0xF1 ≤ (0xF1 : Byte).toNat ∧ (0xF9 : Byte).toNat ≤ 0xF9 ∧
    0x80 ≤ (0x80 : Byte).toNat ∧ (0xF0 : Byte).toNat ≤ 0xF0 ∧ 0xFA ≤ (0xFA : Byte).toNat := by decide

theorem witness_FlowControlFlagValues :
    ((given false [0x33, 0, 0]).req.S = 3 ∧ ((given false [0x33, 0, 0]).req.payload.read 0).toNat / 16 = 3 ∧
      3 ≤ ((given false [0x33, 0, 0]).req.payload.read 0).toNat % 16 ∧ ∃ t, step (given false [0x33, 0, 0]) = .next t) ∧
    (((given false [0x32, 0, 0]).req.payload.read 0).toNat % 16 ≤ 2 ∧
      ∃ t, step (given false [0x32, 0, 0]) = .next t ∧ t.pdu.err = okCode) :=
  ⟨⟨by decide, by decide, by decide, _, rfl⟩, by decide, _, rfl, by decide⟩

theorem witness_FlowControlBlockSizeIsCopied :
    (given false [0x32, 0xFF, 0xF9]).req.S = 3 ∧ (2 : Nibble).toNat ≤ 2 ∧ 0xF1 ≤ (0xF9 : Byte).toNat ∧ (0xF9 : Byte).toNat ≤ 0xF9 ∧
      (0x7F : Byte).toNat ≤ 0x7F := by decide

theorem witness_SeparationTimeBoundaries : (given false [0x30, 0, 0x7F]).req.S = 3 := by decide

theorem witness_FailedDecodeLeavesSentinels :
    (∃ t, step (given false [0x40]) = .next t ∧ t.pdu.err ≠ okCode ∧ t.pdu.err = PduError.invalidFrameType.code) ∧
    (∃ t, step (given false [0x00]) = .next t ∧ t.pdu.err ≠ okCode ∧ t.pdu.err ≠ PduError.invalidFrameType.code) :=
  ⟨⟨_, rfl, by decide, by decide⟩, _, rfl, by decide, by decide⟩

theorem witness_SuccessfulTypeIsTheTypeNibble : ∃ t, step (given false [0x20]) = .next t ∧ t.pdu.err = okCode :=
  ⟨_, rfl, by decide⟩

/-- The type is valid in a parser's error record and not in the InvalidFrameType record. -/
theorem witness_ReadersGiveValidFieldsOnly :
    State.reset.pduValid = false ∧
    (∃ t, step (given false [0x00]) = .next t ∧ t.pduValid = true ∧ t.pdu.err ≠ okCode ∧ t.pdu.ftypeV = true) ∧
    (∃ t, step (given false [0x40]) = .next t ∧ t.pduValid = true ∧ t.pdu.err ≠ okCode ∧ t.pdu.ftypeV = false) ∧
    (∃ t, step (given false [1, 2]) = .next t ∧ t.pduValid = true ∧ t.pdu.err = okCode ∧ t.pdu.lenV = true ∧
      t.pdu.offV = true ∧ t.pdu.seqV = false ∧ t.pdu.fcV = false) ∧
    (∃ t, step (given false [0x30, 0, 0]) = .next t ∧ t.pduValid = true ∧ t.pdu.err = okCode ∧ t.pdu.lenV = false ∧
      t.pdu.offV = false ∧ t.pdu.fcV = true) ∧
    (∃ t, step (given false [0x2F]) = .next t ∧ t.pduValid = true ∧ t.pdu.err = okCode ∧ t.pdu.seqV = true) :=
  ⟨rfl, ⟨_, rfl, by decide⟩, ⟨_, rfl, by decide⟩, ⟨_, rfl, by decide⟩, ⟨_, rfl, by decide⟩, _, rfl, by decide⟩

theorem witness_ReservedErrorCodeNeverProduced :
    (∃ t, step (given false [0x30, 0, 0xFA]) = .next t) ∧ ∃ t, exec (.cf 0) (given false [0x20]) = .next t :=
  ⟨⟨_, rfl⟩, _, rfl⟩

theorem witness_SliceRunsToTheEndOfThePayload : ∃ t, step (given false [0x2F]) = .next t ∧ t.pdu.offV = true :=
  ⟨_, rfl, by decide⟩

/-- The least and the greatest admitted size, and the sizes beside them. -/
theorem witness_AdmittedRequestsAreAnswered :
    (given false [0x20]).req.Admitted ∧ (given false (List.replicate 64 0x20)).req.Admitted := by decide

theorem witness_SizesOutOfContractAreRefused :
    (given false []).req.S = 0 ∧ 64 < (given false (List.replicate 65 0)).req.S := by decide

theorem witness_ReadsAtOrAboveTheSizeFault :
    (given false [1, 2]).req.Admitted ∧ 1 < (given false [1, 2]).req.S ∧ (given false [1, 2]).req.S ≤ 2 := by decide

theorem witness_AbsentOperandsFault :
    2 ≤ (given false [0, 6]).req.S ∧ 6 ≤ (given false [0x10, 0, 0, 0, 0, 8]).req.S ∧ (given false [0x30, 0, 0]).req.S = 3 ∧
      (2 : Nibble).toNat ≤ 2 := by decide

theorem witness_RequestIsNeverWritten :
    (∃ t, exec (.sfShort 1) (given false [1, 2]) = .next t) ∧ (∃ t, exec (.sfEsc none) (given false [0]) = .next t) ∧
    (∃ t, exec (.ffShort 0 (some 8)) (given false [0x10, 8]) = .next t) ∧ (∃ t, exec (.ffEsc none) (given false [0x10]) = .next t) ∧
    (∃ t, exec (.fc 0 none none) (given false [0x30]) = .next t) ∧ (∃ t, exec (.invalidType8F 0) (given false [0x80]) = .next t) ∧
    ∃ t, step (given false [0x2F]) = .next t :=
  ⟨⟨_, rfl⟩, ⟨_, rfl⟩, ⟨_, rfl⟩, ⟨_, rfl⟩, ⟨_, rfl⟩, ⟨_, rfl⟩, _, rfl⟩

/-- Two states with one request and different earlier records. -/
theorem witness_RecordDependsOnTheRequestAlone :
    (given false [0x21]).req = ({ given false [0x21] with pdu := failed 3 0, pduValid := true } : State).req ∧
      (given false [0x21]).pdu ≠ ({ given false [0x21] with pdu := failed 3 0, pduValid := true } : State).pdu ∧
      ∃ t, step (given false [0x21]) = .next t :=
  ⟨rfl, by decide, _, rfl⟩

/-- The second decode starts with another record in the state. -/
theorem witness_DecodingTwiceGivesTheSameRecord :
    ∃ t u : State, step (given true [6, 1, 2, 3, 4, 5, 6]) = .next t ∧ u.req = (given true [6, 1, 2, 3, 4, 5, 6]).req ∧
      u.pdu ≠ (given true [6, 1, 2, 3, 4, 5, 6]).pdu :=
  ⟨_, { given true [6, 1, 2, 3, 4, 5, 6] with pdu := errorRecord none .invalidFrameType }, rfl, rfl, by decide⟩

/-- Two requests of one size that differ in `id`, `fd` and the byte after the payload. -/
theorem witness_UnreadRequestFieldsDoNotMatter :
    ∃ r q : Request, r.ext = q.ext ∧ r.S = q.S ∧ (∀ k, k < r.S → r.payload.read k = q.payload.read k) ∧ r.id ≠ q.id ∧
      r.fd ≠ q.fd ∧ r.payload ≠ q.payload ∧ ∃ t, step (State.reset.present r) = .next t :=
  ⟨⟨0, false, false, 1, [(0, 0x21)]⟩, ⟨7, false, true, 1, [(0, 0x21), (1, 9)]⟩, rfl, rfl, by decide, by decide, by decide,
    by decide, _, rfl⟩

theorem witness_RequestsAreServedInOrder :
    ∀ r ∈ [Request.ofBytes false [0x30, 0, 0], Request.ofBytes false [0x40]], r.Admitted := by decide

theorem witness_ResetDoesNotChangeTheNextResponse : ∃ t, step (given false [0x21]) = .next t := ⟨_, rfl⟩

theorem witness_PresentedBytesAreThePayload :
    1 ≤ ([0x20] : List Byte).length ∧ (List.replicate 64 (0x20 : Byte)).length ≤ 64 ∧
      (List.replicate 64 (0x20 : Byte))[63]? = some 0x20 := by decide

theorem witness_LaidWordIsTheNextInstruction : State.reset.req.payload.wf = true := by decide

end Sys2Proof.Tests
end

section
/-! PROOFS of the state family. One notion carries all three statements: a meaning ends alike on a request when every state
that holds the request gets the same ending from it, whatever record and valid bit the state holds. -/

namespace Sys2Proof.Machine

open Params

/-- On request `r` the meaning `f` has one ending in every state that holds `r`: it responds with one record, or it stops at
one absent operand. -/
def EndsAlike (r : Request) (f : State → Result) : Prop :=
  (∃ p, ∀ s, s.req = r → f s = respond p s) ∨ ∀ s, s.req = r → f s = .fault .readBeyondPayload

/-! Every construct that the meanings are built from keeps the notion. -/

theorem endsAlike_respond (r : Request) (p : Request → Pdu) : EndsAlike r fun s => respond (p s.req) s :=
  .inl ⟨p r, by rintro s rfl; rfl⟩

theorem endsAlike_raise (r : Request) (cls : Option FrameType) (e : PduError) : EndsAlike r (raise cls e) :=
  .inl ⟨errorRecord cls e, fun s _ => raise_eq_respond cls e s⟩

/-- A meaning that is another one on the states of the request. -/
theorem EndsAlike.congr {r : Request} {f g : State → Result} (hg : EndsAlike r g) (h : ∀ s, s.req = r → f s = g s) :
    EndsAlike r f :=
  hg.imp (fun ⟨p, hp⟩ => ⟨p, fun s hs => (h s hs).trans (hp s hs)⟩) fun hp s hs => (h s hs).trans (hp s hs)

/-- A branch on a condition of the request. -/
theorem endsAlike_ite {r : Request} {f g : State → Result} (c : Request → Prop) [DecidablePred c]
    (hf : EndsAlike r f) (hg : EndsAlike r g) : EndsAlike r fun s => if c s.req then f s else g s := by
  by_cases hc : c r
  · exact hf.congr fun s hs => if_pos (hs ▸ hc)
  · exact hg.congr fun s hs => if_neg (hs ▸ hc)

theorem endsAlike_withOperand {α : Type} {r : Request} {k : α → State → Result} (o : Option α)
    (hk : ∀ v, EndsAlike r (k v)) : EndsAlike r fun s => withOperand o fun v => k v s := by
  cases o with
  | none => exact .inr fun _ _ => withOperand_none _
  | some v => exact hk v

/-! Every meaning ends alike: the branches of each, in the order of its definition. -/

theorem endsAlike_execSfShort (r : Request) (len : Nibble) : EndsAlike r (execSfShort len) :=
  endsAlike_ite (fun _ => len.toNat > SF_SHORT_MAX) (endsAlike_raise r _ _) <|
  endsAlike_ite (fun q => len.toNat + 1 > q.S) (endsAlike_raise r _ _) <|
  endsAlike_ite (fun q => q.ext = true ∧ len.toNat = SF_EXT_FORBIDDEN_SHORT) (endsAlike_raise r _ _) <|
  endsAlike_respond r fun q => sfRecord q.S len.toNat

theorem endsAlike_execSfEsc (r : Request) (len : Option Byte) : EndsAlike r (execSfEsc len) :=
  endsAlike_ite (fun q => q.S < SF_ESC_HEADER) (endsAlike_raise r _ _) <|
  endsAlike_withOperand len fun b =>
  endsAlike_ite (fun _ => b.toNat < SF_ESC_MIN) (endsAlike_raise r _ _) <|
  endsAlike_ite (fun q => q.ext = false ∧ b.toNat = SF_STD_FORBIDDEN_ESC) (endsAlike_raise r _ _) <|
  endsAlike_ite (fun q => b.toNat + 2 > q.S) (endsAlike_raise r _ _) <|
  endsAlike_respond r fun q => sfRecord q.S b.toNat

theorem endsAlike_ffFinish (r : Request) (adj base L : Nat) : EndsAlike r (ffFinish adj base L) :=
  endsAlike_ite (fun q => ffOffset adj base q.ext > q.S) (endsAlike_raise r _ _) <|
  endsAlike_ite (fun q => L < minLen q.S q.ext) (endsAlike_raise r _ _) <|
  endsAlike_respond r fun q => ffRecord q.S (ffOffset adj base q.ext) L

theorem endsAlike_ffShortWith (r : Request) (adj : Nat) (hi : Nibble) (lo : Option Byte) :
    EndsAlike r (ffShortWith adj hi lo) :=
  endsAlike_ite (fun q => q.S < FF_SHORT_HEADER) (endsAlike_raise r _ _) <|
  endsAlike_withOperand lo fun _ => endsAlike_ffFinish r _ _ _

theorem endsAlike_ffEscWith (r : Request) (adj : Nat) (len : Option Word32) : EndsAlike r (ffEscWith adj len) :=
  endsAlike_ite (fun q => q.S < FF_SHORT_HEADER) (endsAlike_raise r _ _) <|
  endsAlike_ite (fun q => q.S < FF_ESC_HEADER) (endsAlike_raise r _ _) <|
  endsAlike_withOperand len fun _ => endsAlike_ffFinish r _ _ _

theorem endsAlike_execCf (r : Request) (seq : Nibble) : EndsAlike r (execCf seq) :=
  endsAlike_respond r fun q => ((okRecord .cf).setSeq seq).setSlice CF_HEADER (q.S - CF_HEADER)

/-- What FC does with a separation-time byte. -/
theorem endsAlike_stMicros (r : Request) (flag : Nibble) (bs st : Byte) :
    EndsAlike r fun s =>
      match stMicros st with
      | none => raise (some .fc) .invalidSeparationTime s
      | some us => respond ((okRecord .fc).setFlow flag.toNat bs.toNat us) s := by
  cases stMicros st with
  | none => exact endsAlike_raise r _ _
  | some us => exact endsAlike_respond r fun _ => (okRecord .fc).setFlow flag.toNat bs.toNat us

theorem endsAlike_execFc (r : Request) (flag : Nibble) (bs st : Option Byte) : EndsAlike r (execFc flag bs st) :=
  endsAlike_ite (fun q => q.S ≠ FC_SIZE) (endsAlike_raise r _ _) <|
  endsAlike_ite (fun _ => flag.toNat > FC_FLAG_MAX) (endsAlike_raise r _ _) <|
  endsAlike_withOperand bs fun b => endsAlike_withOperand st fun v => endsAlike_stMicros r flag b v

theorem endsAlike_exec (r : Request) (i : Instr) : EndsAlike r (exec i) := by
  cases i with
  | sfShort len => exact endsAlike_execSfShort r len
  | sfEsc len => exact endsAlike_execSfEsc r len
  | ffShort hi lo => exact endsAlike_ffShortWith r _ hi lo
  | ffEsc len => exact endsAlike_ffEscWith r _ len
  | cf seq => exact endsAlike_execCf r seq
  | fc flag bs st => exact endsAlike_execFc r flag bs st
  | invalidType47 _ => exact endsAlike_raise r none .invalidFrameType
  | invalidType8F _ => exact endsAlike_raise r none .invalidFrameType

/-- A step ends alike: the request chooses the instruction, and a size outside the contract is refused like any response. -/
theorem endsAlike_step (r : Request) : EndsAlike r step := by
  by_cases hr : r.Admitted
  · refine (endsAlike_exec r (instrOf r)).congr ?_
    rintro s rfl
    exact step_of_admitted hr
  · refine (endsAlike_respond r fun _ => Pdu.unset).congr ?_
    rintro s rfl
    rw [step_of_not_admitted hr, respond_of_not_admitted hr]

/-- A meaning that ends alike and answers in one state answers every state of the request with the same record, and changes
nothing else. -/
theorem EndsAlike.next_of_next {r : Request} {f : State → Result} {s t u : State} (hf : EndsAlike r f)
    (hs : s.req = r) (hu : u.req = r) (h : f s = .next t) :
    f u = .next { u with pdu := t.pdu, pduValid := true } := by
  obtain ⟨p, hp⟩ | hfault := hf
  · obtain ⟨hadm, rfl⟩ := respond_eq_next.1 ((hp s hs).symm.trans h)
    rw [hp u hu, respond_of_admitted (by rwa [hu, ← hs])]
  · cases (hfault s hs).symm.trans h

/-- The frame of a meaning that ends alike (R23): the case of `EndsAlike.next_of_next` in which both states are one. -/
theorem EndsAlike.frame {f : State → Result} {s t : State} (hf : EndsAlike s.req f) (h : f s = .next t) :
    t = { s with pdu := t.pdu, pduValid := true } :=
  Host.Outcome.next.inj (h.symm.trans (hf.next_of_next rfl rfl h))

/-- The frame field by field: neither the request nor a byte of its payload changes (R23, R53). -/
theorem EndsAlike.request_unwritten {f : State → Result} {s t : State} (hf : EndsAlike s.req f) (h : f s = .next t) :
    t.req = s.req ∧ (∀ a, t.req.payload.read a = s.req.payload.read a) ∧ t = { s with pdu := t.pdu, pduValid := true } := by
  have hreq : t.req = s.req := by rw [hf.frame h]
  exact ⟨hreq, fun a => by rw [hreq], hf.frame h⟩

/-- Settles O38: the frame of a meaning that ends alike, for `exec` of each instruction and for `step`. -/
theorem requestIsNeverWritten : Obligations.RequestIsNeverWritten :=
  ⟨fun i s _ h => (endsAlike_exec s.req i).request_unwritten h, fun s _ h => (endsAlike_step s.req).request_unwritten h⟩

/-- Settles O39: `step` ends alike on the common request. -/
theorem recordDependsOnTheRequestAlone : Obligations.RecordDependsOnTheRequestAlone :=
  fun s _ _ hreq h => (endsAlike_step s.req).next_of_next rfl hreq.symm h

/-- Settles O40: the answer holds the request still (O38), so a second step gives the same record (O39), which is there
already. -/
theorem decodingTwiceGivesTheSameRecord : Obligations.DecodingTwiceGivesTheSameRecord := by
  intro s t h
  obtain ⟨hreq, -, hframe⟩ := requestIsNeverWritten.2 s t h
  have hvalid : t.pduValid = true := by rw [hframe]
  constructor
  · have hagain : step t = .next { t with pdu := t.pdu, pduValid := true } :=
      recordDependsOnTheRequestAlone s t t hreq.symm h
    rwa [← hvalid] at hagain
  · exact fun u hu => ⟨_, recordDependsOnTheRequestAlone s u t hu.symm h, rfl⟩

end Sys2Proof.Machine
end

section
/-! PROOFS of the memory family: the multi-byte header fields as numbers (R54). -/

namespace Sys2Proof.Machine

/-- A byte put below a word is the word's next less significant byte. -/
theorem toNat_append_byte {n : Nat} (x : BitVec n) (b : Byte) : (x ++ b).toNat = x.toNat * 2 ^ 8 + b.toNat := by
  rw [BitVec.toNat_append, ← Nat.shiftLeft_add_eq_or_of_lt b.isLt, Nat.shiftLeft_eq]

theorem word32_toNat (b2 b3 b4 b5 : Byte) :
    (word32 b2 b3 b4 b5).toNat = b2.toNat * 2 ^ 24 + b3.toNat * 2 ^ 16 + b4.toNat * 2 ^ 8 + b5.toNat := by
  rw [word32, toNat_append_byte, toNat_append_byte, toNat_append_byte]
  omega

/-- The bytes 0x10, 0x00 select the FF escape form (R142, R144), and the four bytes after them are its length. -/
theorem decode_ffEsc (b2 b3 b4 b5 : Byte) (d : List Byte) :
    decode (0x10 :: 0x00 :: b2 :: b3 :: b4 :: b5 :: d) = .ok (.ffEsc (some (word32 b2 b3 b4 b5)), d) :=
  rfl

/-- Settles O45: the 12-bit length and the escape word as numbers, the word the one that the decoder reads. -/
theorem multiByteFieldsAreBigEndian : Obligations.MultiByteFieldsAreBigEndian :=
  ⟨f12_toNat, fun b2 b3 b4 b5 d => ⟨word32 b2 b3 b4 b5, decode_ffEsc b2 b3 b4 b5 d, word32_toNat b2 b3 b4 b5⟩⟩

end Sys2Proof.Machine
end

section
/-! PROOFS of the classify and dispatch family: the classifier as a function of the type nibble (R102, R105), and the ending of
a request that no type claims. -/

namespace Sys2Proof.Machine

/-- Settles O9: both halves are the extracted bit fields, and the values are the quotient and the remainder by 16. -/
theorem nibblesOfAByte : Obligations.NibblesOfAByte :=
  fun b => ⟨rfl, rfl, nib_fst_toNat b, nib_snd_toNat b⟩

/-- The classifier reads the high nibble alone (R105). -/
theorem classify_congr {b c : Byte} (h : b.toNat / 16 = c.toNat / 16) : classify b = classify c := by
  rw [classify, classify, nib_fst_toNat, nib_fst_toNat, h]

/-- A type nibble of 4 or more is beyond the four types (R102). -/
theorem classify_eq_none {b : Byte} (h : 4 ≤ b.toNat / 16) : classify b = none := by
  obtain ⟨k, hk⟩ := Nat.exists_eq_add_of_le' h
  rw [classify, nib_fst_toNat, hk]
  rfl

/-- An error record has every type-specific field at its sentinel, whatever type it keeps (R28). -/
theorem errorRecord_specificUnset (cls : Option FrameType) (e : PduError) : (errorRecord cls e).SpecificUnset := by
  cases cls <;> simp [Pdu.SpecificUnset]

/-- A request whose byte 0 has no type runs one of the two rows of invalid types, and both raise the same error. -/
theorem step_of_unclassified {s : State} (h : s.req.Admitted) (hc : classify (s.req.payload.read 0) = none) :
    step s = raise none .invalidFrameType s := by
  rw [step_of_admitted h]
  simp only [instrOf, hc]
  split
  · rfl
  · rfl

/-- Settles O10: a type nibble below 4 classifies as the byte 0x00, 0x10, 0x20 or 0x30 that has it; with a nibble of 4 or
more the step raises and an admitted request gets the error record without a type. -/
theorem classifierIsTotalOnTheHighNibble : Obligations.ClassifierIsTotalOnTheHighNibble := by
  refine ⟨fun _ => ⟨classify_congr (c := 0x00), classify_congr (c := 0x10), classify_congr (c := 0x20),
    classify_congr (c := 0x30), classify_eq_none⟩, fun s hadm h4 => ?_⟩
  have hstep : step s = .next { s with pdu := errorRecord none .invalidFrameType, pduValid := true } := by
    rw [step_of_unclassified hadm (classify_eq_none h4), raise_eq_respond, respond_of_admitted hadm]
  exact ⟨_, hstep, rfl, rfl, rfl, rfl, rfl, errorRecord_specificUnset none .invalidFrameType⟩

end Sys2Proof.Machine
end

section
/-! PROOFS of the Single Frame family: the two SF meanings as one check and two endings each (R121, R122), what record a
meaning can leave (R106, R203), and the slice of the SF record (R123). -/

namespace Sys2Proof.Machine

open Params
open Laws.HeaderShape (frameTypeOf)

/-! The two forms. The checks that raise one error are one condition, since their order is not observable. -/

theorem execSfShort_eq (len : Nibble) (s : State) :
    execSfShort len s =
      if len.toNat > 7 ∨ len.toNat + 1 > s.req.S ∨ (s.req.ext = true ∧ len.toNat = 7) then
        raise (some .sf) .invalidLength s
      else respond (sfRecord s.req.S len.toNat) s := by
  rw [ite_or, ite_or]
  rfl

theorem execSfEsc_of_lt {s : State} (len : Option Byte) (hS : s.req.S < 2) :
    execSfEsc len s = raise (some .sf) .truncatedHeader s :=
  if_pos hS

theorem execSfEsc_of_le {s : State} (len : Option Byte) (hS : 2 ≤ s.req.S) :
    execSfEsc len s = withOperand len fun b =>
      if b.toNat < 6 ∨ (s.req.ext = false ∧ b.toNat = 7) ∨ b.toNat + 2 > s.req.S then
        raise (some .sf) .invalidLength s
      else respond (sfRecord s.req.S b.toNat) s := by
  simp only [ite_or]
  exact if_neg (Nat.not_lt.2 hS)

/-- An admitted request gets the error record that a meaning raises, and keeps its fields. -/
theorem raise_answers {s : State} (h : s.req.Admitted) (c : FrameType) (e : PduError) :
    ∃ t, raise (some c) e s = .next t ∧ t.pduValid = true ∧ t.req = s.req ∧ t.pdu.err = e.code ∧ t.pdu.SpecificUnset :=
  ⟨_, respond_of_admitted h _, rfl, rfl, rfl, errorRecord_specificUnset (some c) e⟩

/-- Settles O12: the three checks as one condition, on which SF_SHORT answers its record or raises. -/
theorem sfShortResponse : Obligations.SfShortResponse := by
  intro l s hadm _
  rw [exec, execSfShort_eq]
  constructor
  · intro h7 hS hext
    rw [if_neg (not_or.2 ⟨h7.not_gt, not_or.2 ⟨hS.not_gt, hext⟩⟩), respond_of_admitted hadm]
    rfl
  · intro hfail
    rw [if_pos hfail]
    exact raise_answers hadm .sf .invalidLength

/-- Settles O13: below two bytes SF_ESC raises before it takes its operand; from two bytes on its three checks are one
condition. -/
theorem sfEscResponse : Obligations.SfEscResponse := by
  refine fun s hadm => ⟨fun l hS => ?_, fun l h6 hext hS => ?_, fun l hS hfail => ?_⟩
  · rw [exec, execSfEsc_of_lt l hS]
    exact raise_answers hadm .sf .truncatedHeader
  · rw [exec, execSfEsc_of_le _ (by omega), withOperand_some,
      if_neg (not_or.2 ⟨h6.not_gt, not_or.2 ⟨hext, hS.not_gt⟩⟩), respond_of_admitted hadm]
    rfl
  · rw [exec, execSfEsc_of_le _ hS, withOperand_some, if_pos hfail]
    exact raise_answers hadm .sf .invalidLength

/-! The form of a Single Frame. -/

theorem nib_snd_eq_ofNat (b : Byte) : (nib b).2 = BitVec.ofNat 4 (b.toNat % 16) := by
  rw [← nib_snd_toNat, BitVec.ofNat_toNat, BitVec.setWidth_eq]

theorem nib_snd_eq_zero_iff (b : Byte) : (nib b).2 = 0 ↔ b.toNat % 16 = 0 := by
  rw [← nib_snd_toNat]
  exact BitVec.toNat_inj.symm

/-- The instruction of a request that is classified as a Single Frame (R120). -/
theorem instrOf_of_sf {r : Request} (h : classify (r.payload.read 0) = some .sf) :
    instrOf r =
      if (nib (r.payload.read 0)).2 = 0 then .sfEsc (if 2 ≤ r.S then some (r.payload.read 1) else none)
      else .sfShort (nib (r.payload.read 0)).2 := by
  simp only [instrOf, h]

/-- Settles O15: the step runs the instruction of the request, which the zero test on the low nibble alone selects. -/
theorem sfFormByLowNibbleOnly : Obligations.SfFormByLowNibbleOnly := by
  intro s hadm htype
  have hsf : classify (s.req.payload.read 0) = some .sf := classify_congr (c := 0x00) htype
  rw [step_of_admitted hadm, instrOf_of_sf hsf]
  constructor
  · intro hn
    rw [if_neg (mt (nib_snd_eq_zero_iff _).1 hn), nib_snd_eq_ofNat]
  · intro hn
    rw [if_pos ((nib_snd_eq_zero_iff _).2 hn)]

/-! The records. -/

/-- The records that a meaning of frame type `c` can leave on a payload of `S` bytes: an error record of that type, which is
absent for InvalidFrameType alone (R203), or the success record of the type, its slice inside the payload and its values in
the ranges that the meaning has checked. -/
inductive Answer (S : Nat) : Option FrameType → Pdu → Prop
  | error {c : Option FrameType} {e : PduError} (he : c = none ↔ e = .invalidFrameType) : Answer S c (errorRecord c e)
  | sf {L : Nat} (hL : L < S) : Answer S (some .sf) (sfRecord S L)
  | ff {off L : Nat} (hoff : off ≤ S) (hL : 7 ≤ L) : Answer S (some .ff) (ffRecord S off L)
  | cf (n : Nibble) : Answer S (some .cf) (((okRecord .cf).setSeq n).setSlice CF_HEADER (S - CF_HEADER))
  | fc {flag us : Nat} (bs : Byte) (hflag : flag ≤ FC_FLAG_MAX) (hus : us ≤ 127000) :
      Answer S (some .fc) ((okRecord .fc).setFlow flag bs.toNat us)

/-- If the outcome is a next state, its record has the property `Q`. -/
def LeavesOnly (Q : Pdu → Prop) (o : Result) : Prop :=
  ∀ t, o = .next t → Q t.pdu

theorem leavesOnly_respond {Q : Pdu → Prop} {p : Pdu} (s : State) (hp : Q p) : LeavesOnly Q (respond p s) := by
  intro t ht
  obtain ⟨-, rfl⟩ := respond_eq_next.1 ht
  exact hp

theorem answer_raise {S : Nat} (c : Option FrameType) (e : PduError) (s : State)
    (he : c = none ↔ e = .invalidFrameType := by decide) : LeavesOnly (Answer S c) (raise c e s) :=
  leavesOnly_respond s (.error he)

theorem leavesOnly_ite {Q : Pdu → Prop} {c : Prop} [Decidable c] {x y : Result} (hx : c → LeavesOnly Q x)
    (hy : ¬c → LeavesOnly Q y) : LeavesOnly Q (if c then x else y) := by
  by_cases hc : c
  · rw [if_pos hc]
    exact hx hc
  · rw [if_neg hc]
    exact hy hc

theorem leavesOnly_withOperand {α : Type} {Q : Pdu → Prop} (o : Option α) {k : α → Result}
    (hk : ∀ v, LeavesOnly Q (k v)) : LeavesOnly Q (withOperand o k) := by
  intro t ht
  obtain ⟨v, -, hv⟩ := withOperand_eq_next ht
  exact hk v t hv

theorem answer_execSfShort (len : Nibble) (s : State) :
    LeavesOnly (Answer s.req.S (some .sf)) (execSfShort len s) := by
  rw [execSfShort_eq]
  exact leavesOnly_ite (fun _ => answer_raise _ _ s) fun hok => leavesOnly_respond s (.sf (by omega))

theorem answer_execSfEsc (len : Option Byte) (s : State) :
    LeavesOnly (Answer s.req.S (some .sf)) (execSfEsc len s) := by
  rcases Nat.lt_or_ge s.req.S 2 with hS | hS
  · rw [execSfEsc_of_lt len hS]
    exact answer_raise _ _ s
  · rw [execSfEsc_of_le len hS]
    exact leavesOnly_withOperand len fun b =>
      leavesOnly_ite (fun _ => answer_raise _ _ s) fun hok => leavesOnly_respond s (.sf (by omega))

theorem answer_ffFinish (adj base L : Nat) (s : State) :
    LeavesOnly (Answer s.req.S (some .ff)) (ffFinish adj base L s) :=
  leavesOnly_ite (fun _ => answer_raise _ _ s) fun hoff =>
  leavesOnly_ite (fun _ => answer_raise _ _ s) fun hlen =>
  leavesOnly_respond s (.ff (Nat.not_lt.1 hoff) ((seven_le_minLen _ _).trans (Nat.not_lt.1 hlen)))

theorem answer_ffShortWith (adj : Nat) (hi : Nibble) (lo : Option Byte) (s : State) :
    LeavesOnly (Answer s.req.S (some .ff)) (ffShortWith adj hi lo s) :=
  leavesOnly_ite (fun _ => answer_raise _ _ s) fun _ =>
  leavesOnly_withOperand lo fun _ => answer_ffFinish _ _ _ s

theorem answer_ffEscWith (adj : Nat) (len : Option Word32) (s : State) :
    LeavesOnly (Answer s.req.S (some .ff)) (ffEscWith adj len s) :=
  leavesOnly_ite (fun _ => answer_raise _ _ s) fun _ =>
  leavesOnly_ite (fun _ => answer_raise _ _ s) fun _ =>
  leavesOnly_withOperand len fun _ => answer_ffFinish _ _ _ s

theorem answer_execFc (flag : Nibble) (bs st : Option Byte) (s : State) :
    LeavesOnly (Answer s.req.S (some .fc)) (execFc flag bs st s) := by
  refine leavesOnly_ite (fun _ => answer_raise _ _ s) fun _ =>
    leavesOnly_ite (fun _ => answer_raise _ _ s) fun hflag =>
    leavesOnly_withOperand bs fun b => leavesOnly_withOperand st fun v => ?_
  cases hus : stMicros v with
  | none => exact answer_raise _ _ s
  | some us => exact leavesOnly_respond s (.fc b (Nat.not_lt.1 hflag) (stMicros_le hus))

/-- What a meaning can do: it leaves an answer of its header's frame type. -/
theorem answer_exec (i : Instr) (s : State) : LeavesOnly (Answer s.req.S (frameTypeOf i)) (exec i s) := by
  cases i with
  | sfShort len => exact answer_execSfShort len s
  | sfEsc len => exact answer_execSfEsc len s
  | ffShort hi lo => exact answer_ffShortWith _ hi lo s
  | ffEsc len => exact answer_ffEscWith _ len s
  | cf seq => exact leavesOnly_respond s (.cf seq)
  | fc flag bs st => exact answer_execFc flag bs st s
  | invalidType47 _ => exact answer_raise none .invalidFrameType s
  | invalidType8F _ => exact answer_raise none .invalidFrameType s

theorem admitted_of_step_eq_next {s t : State} (h : step s = .next t) : s.req.Admitted := by
  by_contra hadm
  cases (step_of_not_admitted hadm).symm.trans h

theorem errorCode_ne_ok (e : PduError) : e.code ≠ okCode := by
  cases e <;> decide

/-- A successful answer with the SF type is the SF record: every other success record has its own type. -/
theorem Answer.eq_sfRecord {S : Nat} {c : Option FrameType} {p : Pdu} (h : Answer S c p) (hok : p.err = okCode)
    (hsf : p.ftype = FrameType.code .sf) : ∃ L < S, p = sfRecord S L := by
  cases h with
  | @error c e _ => cases c <;> exact absurd hok (errorCode_ne_ok e)
  | sf hL => exact ⟨_, hL, rfl⟩
  | ff _ _ => cases hsf
  | cf _ => cases hsf
  | fc _ _ _ => cases hsf

/-! The SF record as numbers. -/

theorem sfRecord_len_toNat {S L : Nat} (hL : L < S) (hS : S ≤ 64) : (sfRecord S L).len.toNat = L :=
  Nat.mod_eq_of_lt (by omega)

theorem sfRecord_off_toNat {S L : Nat} (hS : S ≤ 64) : (sfRecord S L).off.toNat = S - L :=
  Nat.mod_eq_of_lt (by omega)

theorem sfRecord_dlen_toNat {S L : Nat} (hL : L < S) (hS : S ≤ 64) : (sfRecord S L).dlen.toNat = L :=
  Nat.mod_eq_of_lt (by omega)

/-- The slice of the SF record is the last `L` bytes of the payload. -/
theorem dataSlice_sfRecord {r : Request} {L : Nat} (hL : L < r.S) (hS : r.S ≤ 64) :
    dataSlice r (sfRecord r.S L) = .ok ((List.range L).map fun k => r.payload.read (r.S - L + k)) := by
  have hend : r.S - L + L = r.S := Nat.sub_add_cancel hL.le
  rw [dataSlice, sfRecord_off_toNat hS, sfRecord_dlen_toNat hL hS, readBytes_of_le hend.le (hend.trans_le hS)]

/-- Settles O14: the record is the SF record for some length below S, whose slice is the trailing bytes. -/
theorem sfDataIsTheTrailingBytes : Obligations.SfDataIsTheTrailingBytes := by
  intro s t hstep hok hsf
  have hadm : s.req.Admitted := admitted_of_step_eq_next hstep
  have hanswer := answer_exec (instrOf s.req) s t ((step_of_admitted hadm).symm.trans hstep)
  obtain ⟨L, hL, hp⟩ := hanswer.eq_sfRecord hok hsf
  rw [hp, sfRecord_len_toNat hL hadm.2]
  exact ⟨hL.le, sfRecord_off_toNat hadm.2, sfRecord_dlen_toNat hL hadm.2, dataSlice_sfRecord hL hadm.2⟩

end Sys2Proof.Machine
end

section
/-! PROOFS of the First Frame family: the minimum length bound on the two sides of the short-frame ceiling (R141). -/

namespace Sys2Proof.Machine

open Params

/-- Up to the ceiling the bound is that of the addressing mode. -/
theorem minLen_of_le {S : Nat} (ext : Bool) (hS : S ≤ SHORT_FRAME_CEILING) :
    minLen S ext = if ext then FF_MIN_EXT else FF_MIN_STD :=
  if_neg hS.not_gt

/-- Above the ceiling the bound grows with the payload. -/
theorem minLen_of_lt {S : Nat} (ext : Bool) (hS : SHORT_FRAME_CEILING < S) :
    minLen S ext = if ext then S - 2 else S - 1 :=
  if_pos hS

/-- Settles O17: each side of the ceiling, at both addressing modes. -/
theorem minimumLengthBound : Obligations.MinimumLengthBound := by
  intro S
  constructor
  · intro hS
    exact ⟨minLen_of_le false hS, minLen_of_le true hS⟩
  · intro hS
    exact ⟨minLen_of_lt false hS, minLen_of_lt true hS⟩

end Sys2Proof.Machine
end

section
/-! PROOFS of the Consecutive Frame family: the record of CF field by field, and its one ending (R161). -/

namespace Sys2Proof.Machine

open Params

/-- CF checks nothing (R163): its only ending is the response with its record. -/
theorem exec_cf (n : Nibble) (s : State) :
    exec (.cf n) s = respond (((okRecord .cf).setSeq n).setSlice CF_HEADER (s.req.S - CF_HEADER)) s := rfl

/-- The fields that the CF record sets over the unset record. -/
theorem setSlice_setSeq_okRecord_cf (n : Nibble) (S : Nat) :
    ((okRecord .cf).setSeq n).setSlice CF_HEADER (S - CF_HEADER) =
      { Pdu.unset with
        ftypeV := true, ftype := 2, seqV := true, seq := n
        offV := true, off := 1, dlen := BitVec.ofNat 7 (S - 1) } := rfl

/-- Settles O22: an admitted request gets the one record that CF responds with. -/
theorem cfResponse : Obligations.CfResponse := by
  intro n s hadm
  rw [exec_cf, respond_of_admitted hadm, setSlice_setSeq_okRecord_cf]

end Sys2Proof.Machine
end

section
/-! PROOFS of the Flow Control family: the separation time by range (R173), what FC does on a payload of three bytes (R170), and
the step on such a payload. -/

namespace Sys2Proof.Machine

/-! The separation time. -/

theorem stMicros_of_ms {st : Byte} (h : st.toNat ≤ 0x7F) : stMicros st = some (st.toNat * 1000) :=
  if_pos h

theorem stMicros_of_us {st : Byte} (hlo : 0xF1 ≤ st.toNat) (hhi : st.toNat ≤ 0xF9) :
    stMicros st = some ((st.toNat - 0xF0) * 100) :=
  (if_neg (Nat.not_le.2 (Nat.lt_of_lt_of_le (by decide) hlo))).trans (if_pos ⟨hlo, hhi⟩)

/-- Both legal ranges have a separation time. -/
theorem exists_stMicros_of_legal {st : Byte} (h : st.toNat ≤ 0x7F ∨ (0xF1 ≤ st.toNat ∧ st.toNat ≤ 0xF9)) :
    ∃ us, stMicros st = some us := by
  obtain hms | ⟨hlo, hhi⟩ := h
  · exact ⟨_, stMicros_of_ms hms⟩
  · exact ⟨_, stMicros_of_us hlo hhi⟩

/-! FC on a payload of three bytes, which passes the size check. -/

theorem admitted_of_size_three {r : Request} (hS : r.S = 3) : r.Admitted := by
  rw [Request.Admitted, hS]
  decide

/-- A flag beyond Overflow is answered before an operand is read (R172). -/
theorem exec_fc_of_flag_gt {flag : Nibble} {s : State} (bs st : Option Byte) (hS : s.req.S = 3) (hflag : 2 < flag.toNat) :
    exec (.fc flag bs st) s = raise (some .fc) .invalidFlowControlFlag s :=
  (if_neg (not_not.2 hS)).trans (if_pos hflag)

/-- With a legal flag the separation time alone decides the ending (R173); the block size is passed through (R174). -/
theorem exec_fc_of_flag_le {flag : Nibble} {s : State} (bs st : Byte) (hS : s.req.S = 3) (hflag : flag.toNat ≤ 2) :
    exec (.fc flag (some bs) (some st)) s =
      (stMicros st).elim (raise (some .fc) .invalidSeparationTime s)
        fun us => respond ((okRecord .fc).setFlow flag.toNat bs.toNat us) s := by
  refine (if_neg (not_not.2 hS)).trans ((if_neg hflag.not_gt).trans ?_)
  rw [withOperand_some, withOperand_some]
  cases stMicros st with
  | none => rfl
  | some us => rfl

/-- The step on three bytes of type nibble 3: the flag is the low nibble of byte 0, and both operands are present (R74). -/
theorem step_of_fc {s : State} (hS : s.req.S = 3) (htype : (s.req.payload.read 0).toNat / 16 = 3) :
    step s = exec (.fc (nib (s.req.payload.read 0)).2 (some (s.req.payload.read 1)) (some (s.req.payload.read 2))) s := by
  have hfc : classify (s.req.payload.read 0) = some .fc := classify_congr (c := 0x30) htype
  rw [step_of_admitted (admitted_of_size_three hS)]
  simp [instrOf, hfc, hS]

/-- `raise` leaves the code of its error. -/
theorem err_of_raise_eq_next {c : FrameType} {e : PduError} {s t : State} (h : raise (some c) e s = .next t) :
    t.pdu.err = e.code := by
  obtain ⟨-, rfl⟩ := respond_eq_next.1 h
  rfl

/-- Settles O25: an illegal flag raises its own error; with a legal one the step raises another error or answers the record
that holds the flag. -/
theorem flowControlFlagValues : Obligations.FlowControlFlagValues := by
  intro s t hS htype hstep
  rw [step_of_fc hS htype] at hstep
  rw [← nib_snd_toNat]
  rcases Nat.lt_or_ge 2 (nib (s.req.payload.read 0)).2.toNat with hflag | hflag
  · rw [exec_fc_of_flag_gt _ _ hS hflag] at hstep
    have herr := err_of_raise_eq_next hstep
    exact ⟨fun _ => herr, fun hle => absurd hle hflag.not_ge, fun hok => absurd (herr.symm.trans hok) (errorCode_ne_ok _)⟩
  · rw [exec_fc_of_flag_le _ _ hS hflag] at hstep
    refine ⟨fun hgt => absurd hflag (Nat.not_le.2 hgt), ?_⟩
    cases hus : stMicros (s.req.payload.read 2) with
    | none =>
      rw [hus, Option.elim_none] at hstep
      have herr := err_of_raise_eq_next hstep
      have hother : PduError.invalidSeparationTime.code ≠ PduError.invalidFlowControlFlag.code := by decide
      exact ⟨fun _ => herr.trans_ne hother, fun hok => absurd (herr.symm.trans hok) (errorCode_ne_ok _)⟩
    | some us =>
      rw [hus, Option.elim_some] at hstep
      obtain ⟨-, rfl⟩ := respond_eq_next.1 hstep
      have hfield : (BitVec.ofNat 2 (nib (s.req.payload.read 0)).2.toNat).toNat = (nib (s.req.payload.read 0)).2.toNat :=
        Nat.mod_eq_of_lt (by omega)
      exact ⟨fun _ => (errorCode_ne_ok _).symm, fun _ => ⟨rfl, hfield, hfield.trans_le hflag⟩⟩

/-- Settles O26: a legal separation time reaches the record, whose `bs` is the byte passed through. -/
theorem flowControlBlockSizeIsCopied : Obligations.FlowControlBlockSizeIsCopied := by
  intro flag bs st s hS hflag hst
  obtain ⟨us, hus⟩ := exists_stMicros_of_legal hst
  have hexec : exec (.fc flag (some bs) (some st)) s =
      .next { s with pdu := (okRecord .fc).setFlow flag.toNat bs.toNat us, pduValid := true } := by
    rw [exec_fc_of_flag_le bs st hS hflag, hus, Option.elim_some, respond_of_admitted (admitted_of_size_three hS)]
  exact ⟨_, hexec, rfl, rfl, by simp⟩

end Sys2Proof.Machine
end

section
/-! PROOFS of the other statements: the decoder against the encoder (R79), the records a step can leave (R25 to R28), that every
admitted request is answered from what it holds (R108, R109), the First Frame and Flow Control responses, the spec's pseudocode,
and requests written as bytes. -/

namespace Sys2Proof.Machine

open Params
open Laws.HeaderShape (frameTypeOf)

/-! The decoder on a byte 0 of each type, and the operands that it and the encoder assemble. -/

theorem decode_cons_sf (n : Nibble) (rest : List Byte) : decode ((0x0#4 ++ n) :: rest) = .ok (decodeSf n rest) := by
  rw [decode, classify_sf, nib_append]

theorem decode_cons_ff (n : Nibble) (rest : List Byte) : decode ((0x1#4 ++ n) :: rest) = .ok (decodeFf n rest) := by
  rw [decode, classify_ff, nib_append]

theorem decode_cons_cf (n : Nibble) (rest : List Byte) : decode ((0x2#4 ++ n) :: rest) = .ok (.cf n, rest) := by
  rw [decode, classify_cf, nib_append]

theorem decode_cons_fc (n : Nibble) (rest : List Byte) : decode ((0x3#4 ++ n) :: rest) = .ok (decodeFc n rest) := by
  rw [decode, classify_fc, nib_append]

theorem decode_cons_invalid {b : Byte} (h : classify b = none) (rest : List Byte) :
    decode (b :: rest) = .ok (decodeInvalid b rest) := by
  rw [decode, h]

theorem decodeInvalid_47 (x : BitVec 6) (rest : List Byte) :
    decodeInvalid (0x1#2 ++ x) rest = (.invalidType47 x, rest) := by
  have hbit : (0x1#2 ++ x).getLsbD 7 = false := by revert x; decide
  have hx : (0x1#2 ++ x).extractLsb' 0 6 = x := by revert x; decide
  rw [decodeInvalid, hbit, if_neg Bool.false_ne_true, hx]

theorem decodeInvalid_8F (x : BitVec 7) (rest : List Byte) :
    decodeInvalid (0x1#1 ++ x) rest = (.invalidType8F x, rest) := by
  have hbit : (0x1#1 ++ x).getLsbD 7 = true := by revert x; decide
  have hx : (0x1#1 ++ x).extractLsb' 0 7 = x := by revert x; decide
  rw [decodeInvalid, hbit, if_pos rfl, hx]

theorem f12_eq_zero_iff {n : Nibble} {b : Byte} : f12 n b = 0 ↔ n = 0 ∧ b = 0 := by
  rw [← BitVec.toNat_inj, ← BitVec.toNat_inj, ← BitVec.toNat_inj, f12_toNat]
  simp

theorem word32_extractLsb' (w : Word32) :
    word32 (w.extractLsb' 24 8) (w.extractLsb' 16 8) (w.extractLsb' 8 8) (w.extractLsb' 0 8) = w := by
  apply BitVec.eq_of_toNat_eq
  have hw := w.isLt
  simp only [word32_toNat, BitVec.extractLsb'_toNat, Nat.shiftRight_eq_div_pow]
  omega

theorem encodeWord32_word32 (b2 b3 b4 b5 : Byte) :
    encodeWord32 (some (word32 b2 b3 b4 b5)) = [b2, b3, b4, b5] := by
  have h := word32_toNat b2 b3 b4 b5
  simp only [encodeWord32, List.cons.injEq, ← BitVec.toNat_inj, BitVec.extractLsb'_toNat, Nat.shiftRight_eq_div_pow, h,
    and_true]
  omega

theorem decodeSf_of_ne_zero {n : Nibble} (h : n ≠ 0) (rest : List Byte) : decodeSf n rest = (.sfShort n, rest) :=
  if_neg h

theorem wf_ffShort_some {hi : Nibble} {lo : Byte} : (Instr.ffShort hi (some lo)).wf = true ↔ f12 hi lo ≠ 0 := by
  rw [ne_eq, f12_eq_zero_iff, not_and_or]
  simp [Instr.wf]

/-! A header that lacks no byte decodes back, whatever follows it. -/

theorem decode_encode_sfShort {len : Nibble} (h : len ≠ 0) (d : List Byte) :
    decode (encode (.sfShort len) ++ d) = .ok (.sfShort len, d) := by
  rw [encode, List.singleton_append, decode_cons_sf, decodeSf_of_ne_zero h]

theorem decode_encode_sfEsc (len : Byte) (d : List Byte) :
    decode (encode (.sfEsc (some len)) ++ d) = .ok (.sfEsc (some len), d) :=
  rfl

theorem decode_encode_ffShort {hi : Nibble} {lo : Byte} (h : f12 hi lo ≠ 0) (d : List Byte) :
    decode (encode (.ffShort hi (some lo)) ++ d) = .ok (.ffShort hi (some lo), d) := by
  rw [encode, List.cons_append, decode_cons_ff, encodeByte, List.singleton_append, decodeFf, if_neg h]

theorem decode_encode_ffEsc (w : Word32) (d : List Byte) :
    decode (encode (.ffEsc (some w)) ++ d) = .ok (.ffEsc (some w), d) := by
  refine (decode_ffEsc _ _ _ _ d).trans ?_
  rw [word32_extractLsb']

theorem decode_encode_cf (n : Nibble) (d : List Byte) : decode (encode (.cf n) ++ d) = .ok (.cf n, d) :=
  decode_cons_cf n d

theorem decode_encode_fc (flag : Nibble) (bs st : Byte) (d : List Byte) :
    decode (encode (.fc flag (some bs) (some st)) ++ d) = .ok (.fc flag (some bs) (some st), d) :=
  decode_cons_fc flag (bs :: st :: d)

theorem decode_encode_invalidType47 (x : BitVec 6) (d : List Byte) :
    decode (encode (.invalidType47 x) ++ d) = .ok (.invalidType47 x, d) := by
  rw [encode, List.singleton_append, decode_cons_invalid (classify_invalid47 x), decodeInvalid_47]

theorem decode_encode_invalidType8F (x : BitVec 7) (d : List Byte) :
    decode (encode (.invalidType8F x) ++ d) = .ok (.invalidType8F x, d) := by
  rw [encode, List.singleton_append, decode_cons_invalid (classify_invalid8F x), decodeInvalid_8F]

/-- Both clauses for a header that decodes back before any bytes, no bytes among them. -/
theorem decodesBack_of_append {i : Instr} {P Q R S : Prop} (h : ∀ d, decode (encode i ++ d) = .ok (i, d)) :
    decode (encode i) = .ok (i, []) ∧ (P → Q → R → S → ∀ d, decode (encode i ++ d) = .ok (i, d)) :=
  ⟨by simpa using h [], fun _ _ _ _ => h⟩

/-- Settles O6: row by row; a row that lacks a byte is excluded from the second clause by its own hypothesis. -/
theorem encodedHeadersDecodeBack : Obligations.EncodedHeadersDecodeBack := by
  intro i hwf
  cases i with
  | sfShort len => exact decodesBack_of_append (decode_encode_sfShort (bne_iff_ne.1 hwf))
  | sfEsc len =>
    cases len with
    | none => exact ⟨rfl, fun _ h => absurd rfl h⟩
    | some b => exact decodesBack_of_append (decode_encode_sfEsc b)
  | ffShort hi lo =>
    cases lo with
    | none => exact ⟨decode_cons_ff hi [], fun h => absurd rfl (h hi)⟩
    | some b => exact decodesBack_of_append (decode_encode_ffShort (wf_ffShort_some.1 hwf))
  | ffEsc len =>
    cases len with
    | none => exact ⟨rfl, fun _ _ h => absurd rfl h⟩
    | some w => exact decodesBack_of_append (decode_encode_ffEsc w)
  | cf n => exact decodesBack_of_append (decode_encode_cf n)
  | fc flag bs st =>
    cases st with
    | none =>
      refine ⟨?_, fun _ _ _ h => absurd rfl (h flag bs)⟩
      cases bs with
      | none => exact decode_cons_fc flag []
      | some b => exact decode_cons_fc flag [b]
    | some t =>
      cases bs with
      | none => cases hwf
      | some b => exact decodesBack_of_append (decode_encode_fc flag b t)
  | invalidType47 x => exact decodesBack_of_append (decode_encode_invalidType47 x)
  | invalidType8F x => exact decodesBack_of_append (decode_encode_invalidType8F x)

/-! The other direction. -/

/-- A classified byte is the type nibble of its class and its low nibble (R71). -/
theorem eq_append_of_classify {b : Byte} {c : FrameType} (h : classify b = some c) :
    b = c.code.setWidth 4 ++ (nib b).2 := by
  revert b
  cases c with
  | sf => decide
  | ff => decide
  | cf => decide
  | fc => decide

theorem eq_encode_decodeSf {n : Nibble} {rest d : List Byte} {i : Instr} (h : decodeSf n rest = (i, d)) :
    i.wf = true ∧ (0x0#4 ++ n) :: rest = encode i ++ d := by
  by_cases hn : n = 0
  · subst hn
    cases rest with
    | nil => cases h; exact ⟨rfl, rfl⟩
    | cons b1 rest => cases h; exact ⟨rfl, rfl⟩
  · rw [decodeSf_of_ne_zero hn] at h
    cases h
    exact ⟨bne_iff_ne.2 hn, rfl⟩

theorem eq_encode_decodeFfEsc {rest d : List Byte} {i : Instr} (h : decodeFfEsc rest = (i, d)) :
    i.wf = true ∧ 0x10 :: 0x00 :: rest = encode i ++ d := by
  match rest with
  | [] | [_] | [_, _] | [_, _, _] => cases h; exact ⟨rfl, rfl⟩
  | b2 :: b3 :: b4 :: b5 :: rest =>
    cases h
    exact ⟨rfl, by rw [encode, encodeWord32_word32]; rfl⟩

theorem eq_encode_decodeFf {n : Nibble} {rest d : List Byte} {i : Instr} (h : decodeFf n rest = (i, d)) :
    i.wf = true ∧ (0x1#4 ++ n) :: rest = encode i ++ d := by
  cases rest with
  | nil => cases h; exact ⟨rfl, rfl⟩
  | cons b1 rest =>
    by_cases hf : f12 n b1 = 0
    · rw [decodeFf, if_pos hf] at h
      obtain ⟨rfl, rfl⟩ := f12_eq_zero_iff.1 hf
      exact eq_encode_decodeFfEsc h
    · rw [decodeFf, if_neg hf] at h
      cases h
      exact ⟨wf_ffShort_some.2 hf, rfl⟩

theorem eq_encode_decodeFc {n : Nibble} {rest d : List Byte} {i : Instr} (h : decodeFc n rest = (i, d)) :
    i.wf = true ∧ (0x3#4 ++ n) :: rest = encode i ++ d := by
  match rest with
  | [] | [_] | _ :: _ :: _ => cases h; exact ⟨rfl, rfl⟩

theorem eq_encode_decodeInvalid {b : Byte} {rest d : List Byte} {i : Instr} (hb : classify b = none)
    (h : decodeInvalid b rest = (i, d)) : i.wf = true ∧ b :: rest = encode i ++ d := by
  by_cases h7 : b.getLsbD 7 = true
  · rw [decodeInvalid, if_pos h7] at h
    cases h
    have hbyte : b = 0x1#1 ++ b.extractLsb' 0 7 := by revert b; decide
    exact ⟨rfl, congrArg (· :: _) hbyte⟩
  · rw [decodeInvalid, if_neg h7] at h
    cases h
    have hbyte : b = 0x1#2 ++ b.extractLsb' 0 6 := by revert b; decide
    exact ⟨rfl, congrArg (· :: _) hbyte⟩

/-- Settles O7: by the class of byte 0, which fixes its type nibble. -/
theorem decodedBytesAreTheEncoding : Obligations.DecodedBytesAreTheEncoding := by
  intro bytes i rest h
  cases bytes with
  | nil => cases h
  | cons b tl =>
    rw [decode] at h
    rcases hc : classify b with _ | c
    · rw [hc] at h
      exact eq_encode_decodeInvalid hc (Except.ok.inj h)
    · rw [eq_append_of_classify hc]
      rw [hc] at h
      cases c with
      | sf => exact eq_encode_decodeSf (Except.ok.inj h)
      | ff => exact eq_encode_decodeFf (Except.ok.inj h)
      | cf => cases h; exact ⟨rfl, rfl⟩
      | fc => exact eq_encode_decodeFc (Except.ok.inj h)

/-! The opcode map. -/

/-- A word in the range of the values whose upper bits are `k`. -/
theorem eq_append_ofNat {m n : Nat} {b : BitVec (m + n)} (k : BitVec m) (hlo : k.toNat * 2 ^ n ≤ b.toNat)
    (hhi : b.toNat < k.toNat * 2 ^ n + 2 ^ n) : b = k ++ BitVec.ofNat n (b.toNat - k.toNat * 2 ^ n) := by
  apply BitVec.eq_of_toNat_eq
  rw [BitVec.toNat_append, ← Nat.shiftLeft_add_eq_or_of_lt (BitVec.isLt _), Nat.shiftLeft_eq, BitVec.toNat_ofNat,
    Nat.mod_eq_of_lt (by omega)]
  omega

theorem exists_decode_cons (b : Byte) (rest : List Byte) : ∃ i d, decode (b :: rest) = .ok (i, d) := by
  rw [decode]
  cases classify b with
  | none => exact ⟨_, _, rfl⟩
  | some c => cases c <;> exact ⟨_, _, rfl⟩

theorem ofNat_ne_zero {n x : Nat} (h0 : x ≠ 0) (hx : x < 2 ^ n) : BitVec.ofNat n x ≠ 0 := by
  intro h
  have h' := congrArg BitVec.toNat h
  rw [BitVec.toNat_ofNat, Nat.mod_eq_of_lt hx] at h'
  exact h0 (h'.trans BitVec.toNat_zero)

theorem decodeFfEsc_fst (rest : List Byte) : ∃ l, (decodeFfEsc rest).1 = .ffEsc l := by
  match rest with
  | [] | [_] | [_, _] | [_, _, _] | _ :: _ :: _ :: _ :: _ => exact ⟨_, rfl⟩

theorem decodeFf_fst_of_hi_ne_zero {n : Nibble} (h : n ≠ 0) (rest : List Byte) :
    (decodeFf n rest).1 = .ffShort n rest.head? := by
  cases rest with
  | nil => rfl
  | cons b1 d =>
    have hf : f12 n b1 ≠ 0 := fun hf => h (f12_eq_zero_iff.1 hf).1
    rw [decodeFf, if_neg hf]
    rfl

theorem decodeFc_fst (n : Nibble) (rest : List Byte) : (decodeFc n rest).1 = .fc n rest[0]? rest[1]? := by
  match rest with
  | [] | [_] | _ :: _ :: _ => rfl

/-- The instruction that a decode answers. -/
theorem eq_fst_of_decode_eq {bytes d : List Byte} {i : Instr} {p : Instr × List Byte} (hp : decode bytes = .ok p)
    (hd : decode bytes = .ok (i, d)) : i = p.1 :=
  congrArg Prod.fst (Except.ok.inj (hd.symm.trans hp))

/-- Settles O8: byte 0 of each range is its row's fixed bits and the operand, on which the decoder is known. -/
theorem opcodeMapSelectsOneRow : Obligations.OpcodeMapSelectsOneRow := by
  intro b0 rest
  obtain ⟨i, d, hd⟩ := exists_decode_cons b0 rest
  refine ⟨i, d, hd, ?sfEsc, ?sfShort, ?ffEsc, ?ffShortLow, ?ffShort, ?cf, ?fc, ?invalid47, ?invalid8F⟩
  case sfEsc =>
    intro h
    obtain rfl : b0 = 0x00 := BitVec.eq_of_toNat_eq h
    cases rest with
    | nil => exact ⟨none, eq_fst_of_decode_eq rfl hd⟩
    | cons b1 r => exact ⟨some b1, eq_fst_of_decode_eq rfl hd⟩
  case sfShort =>
    intro hlo hhi
    have hn : BitVec.ofNat 4 b0.toNat ≠ 0 := ofNat_ne_zero (Nat.ne_of_gt hlo) (Nat.lt_succ_of_le hhi)
    rw [eq_append_ofNat (m := 4) (n := 4) (b := b0) 0x0#4 (Nat.zero_le _) (Nat.lt_succ_of_le hhi)] at hd
    exact eq_fst_of_decode_eq ((decode_cons_sf _ _).trans (congrArg _ (decodeSf_of_ne_zero hn rest))) hd
  case ffEsc =>
    rintro b1 r h rfl rfl
    obtain rfl : b0 = 0x10 := BitVec.eq_of_toNat_eq h
    obtain ⟨l, hl⟩ := decodeFfEsc_fst r
    exact ⟨l, (eq_fst_of_decode_eq (decode_cons_ff 0 _) hd).trans hl⟩
  case ffShortLow =>
    rintro b1 r h rfl hb1
    obtain rfl : b0 = 0x10 := BitVec.eq_of_toNat_eq h
    have hf : f12 0 b1 ≠ 0 := fun hf => hb1 (f12_eq_zero_iff.1 hf).2
    exact eq_fst_of_decode_eq (decode_encode_ffShort hf r) hd
  case ffShort =>
    intro hlo hhi
    have hn : BitVec.ofNat 4 (b0.toNat - 0x10) ≠ 0 := ofNat_ne_zero (by omega) (by omega)
    rw [eq_append_ofNat (m := 4) (n := 4) (b := b0) 0x1#4 (Nat.le_of_lt hlo) (Nat.lt_succ_of_le hhi)] at hd
    exact (eq_fst_of_decode_eq (decode_cons_ff _ rest) hd).trans (decodeFf_fst_of_hi_ne_zero hn rest)
  case cf =>
    intro hlo hhi
    rw [eq_append_ofNat (m := 4) (n := 4) (b := b0) 0x2#4 hlo (Nat.lt_succ_of_le hhi)] at hd
    exact eq_fst_of_decode_eq (decode_cons_cf _ rest) hd
  case fc =>
    intro hlo hhi
    rw [eq_append_ofNat (m := 4) (n := 4) (b := b0) 0x3#4 hlo (Nat.lt_succ_of_le hhi)] at hd
    exact (eq_fst_of_decode_eq (decode_cons_fc _ rest) hd).trans (decodeFc_fst _ rest)
  case invalid47 =>
    intro hlo hhi
    rw [eq_append_ofNat (m := 2) (n := 6) (b := b0) 0x1#2 hlo (Nat.lt_succ_of_le hhi)] at hd
    exact eq_fst_of_decode_eq (decode_encode_invalidType47 _ rest) hd
  case invalid8F =>
    intro hlo
    rw [eq_append_ofNat (m := 1) (n := 7) (b := b0) 0x1#1 hlo b0.isLt] at hd
    exact eq_fst_of_decode_eq (decode_encode_invalidType8F _ rest) hd

/-- Settles O5: each header is read off from its bytes. -/
theorem headerBytesDecode : Obligations.HeaderBytesDecode :=
  ⟨rfl, rfl, rfl, rfl, rfl, rfl, rfl, rfl⟩

/-! What every step leaves: an answer of the type of byte 0, with its values in the ranges of R25. -/

theorem code_of_classify {b : Byte} {c : FrameType} (h : classify b = some c) : c.code.toNat = b.toNat / 16 := by
  revert b
  cases c with
  | sf => decide
  | ff => decide
  | cf => decide
  | fc => decide

/-- The instruction of a request has the type of its byte 0. -/
theorem frameTypeOf_instrOf (r : Request) : frameTypeOf (instrOf r) = classify (r.payload.read 0) := by
  rcases hc : classify (r.payload.read 0) with _ | c
  · simp only [instrOf, hc]
    split <;> rfl
  · cases c with
    | sf => simp only [instrOf, hc]; split <;> rfl
    | ff => simp only [instrOf, hc]; split <;> rfl
    | cf => simp only [instrOf, hc]; rfl
    | fc => simp only [instrOf, hc]; rfl

/-- The instruction of a request is a header of some payload. -/
theorem wf_instrOf {r : Request} (h : 1 ≤ r.S) : (instrOf r).wf = true := by
  obtain ⟨rest, hd⟩ := decode_payload r h
  exact (decodedBytesAreTheEncoding _ _ _ hd).1

theorem answer_step {s t : State} (h : step s = .next t) :
    Answer s.req.S (classify (s.req.payload.read 0)) t.pdu := by
  rw [step_of_admitted (admitted_of_step_eq_next h)] at h
  rw [← frameTypeOf_instrOf]
  exact answer_exec _ s t h

/-- The ranges that R25 gives to the length of a record that declares one, and R80 to its First Frame offset. -/
def Pdu.InRange (p : Pdu) : Prop :=
  (p.lenV = true → p.ftype = FrameType.code .sf → 1 ≤ p.len.toNat ∧ p.len.toNat ≤ 62) ∧
  (p.lenV = true → p.ftype = FrameType.code .ff → 7 ≤ p.len.toNat ∧ 2 ≤ p.off.toNat)

theorem inRange_of_lenV {p : Pdu} (h : p.lenV = false) : p.InRange :=
  ⟨fun h' => absurd (h.symm.trans h') (by decide), fun h' => absurd (h.symm.trans h') (by decide)⟩

theorem inRange_sfRecord {S L : Nat} (h1 : 1 ≤ L) (h62 : L ≤ 62) : (sfRecord S L).InRange := by
  have hlen : (sfRecord S L).len.toNat = L := Nat.mod_eq_of_lt (by omega)
  refine ⟨fun _ _ => ?_, fun _ h => by cases h⟩
  rw [hlen]
  exact ⟨h1, h62⟩

theorem ffRecord_off_toNat {S off : Nat} (L : Nat) (hoff : off ≤ S) (hS : S ≤ 64) : (ffRecord S off L).off.toNat = off :=
  Nat.mod_eq_of_lt (by omega)

theorem ffRecord_dlen_toNat {S : Nat} (off L : Nat) (hS : S ≤ 64) : (ffRecord S off L).dlen.toNat = S - off :=
  Nat.mod_eq_of_lt (by omega)

theorem inRange_ffRecord {S off L : Nat} (h2 : 2 ≤ off) (hoff : off ≤ S) (hS : S ≤ 64) (h7 : 7 ≤ L) (hL : L < 2 ^ 32) :
    (ffRecord S off L).InRange := by
  have hlen : (ffRecord S off L).len.toNat = L := Nat.mod_eq_of_lt hL
  refine ⟨fun _ h => (by cases h), fun _ _ => ?_⟩
  rw [hlen, ffRecord_off_toNat L hoff hS]
  exact ⟨h7, h2⟩

theorem inRange_raise (c : Option FrameType) (e : PduError) (s : State) : LeavesOnly Pdu.InRange (raise c e s) :=
  leavesOnly_respond s (inRange_of_lenV (by cases c <;> rfl))

theorem inRange_execSfShort {len : Nibble} (hlen : len ≠ 0) (s : State) : LeavesOnly Pdu.InRange (execSfShort len s) := by
  have h0 : len.toNat ≠ 0 := fun h => hlen (BitVec.eq_of_toNat_eq h)
  rw [execSfShort_eq]
  exact leavesOnly_ite (fun _ => inRange_raise _ _ s) fun hok =>
    leavesOnly_respond s (inRange_sfRecord (by omega) (by omega))

theorem inRange_execSfEsc (len : Option Byte) {s : State} (hS : s.req.S ≤ 64) :
    LeavesOnly Pdu.InRange (execSfEsc len s) := by
  rcases Nat.lt_or_ge s.req.S 2 with h2 | h2
  · rw [execSfEsc_of_lt len h2]
    exact inRange_raise _ _ s
  · rw [execSfEsc_of_le len h2]
    exact leavesOnly_withOperand len fun b => leavesOnly_ite (fun _ => inRange_raise _ _ s) fun hok =>
      leavesOnly_respond s (inRange_sfRecord (by omega) (by omega))

theorem inRange_ffFinish {adj base L : Nat} {s : State} (hbase : 2 ≤ base) (hL : L < 2 ^ 32) (hS : s.req.S ≤ 64) :
    LeavesOnly Pdu.InRange (ffFinish adj base L s) :=
  leavesOnly_ite (fun _ => inRange_raise _ _ s) fun hoff =>
  leavesOnly_ite (fun _ => inRange_raise _ _ s) fun hmin =>
  leavesOnly_respond s (inRange_ffRecord (hbase.trans (Nat.le_add_right _ _)) (Nat.not_lt.1 hoff) hS
    ((seven_le_minLen _ _).trans (Nat.not_lt.1 hmin)) hL)

theorem inRange_execFfShort (hi : Nibble) (lo : Option Byte) {s : State} (hS : s.req.S ≤ 64) :
    LeavesOnly Pdu.InRange (execFfShort hi lo s) :=
  leavesOnly_ite (fun _ => inRange_raise _ _ s) fun _ =>
  leavesOnly_withOperand lo fun _ => inRange_ffFinish (by decide) (Nat.lt_trans (BitVec.isLt _) (by decide)) hS

theorem inRange_execFfEsc (len : Option Word32) {s : State} (hS : s.req.S ≤ 64) :
    LeavesOnly Pdu.InRange (execFfEsc len s) :=
  leavesOnly_ite (fun _ => inRange_raise _ _ s) fun _ =>
  leavesOnly_ite (fun _ => inRange_raise _ _ s) fun _ =>
  leavesOnly_withOperand len fun w => inRange_ffFinish (by decide) w.isLt hS

/-- A Flow Control answer declares no length. -/
theorem Answer.inRange_of_fc {S : Nat} {p : Pdu} (h : Answer S (some .fc) p) : p.InRange := by
  cases h with
  | error _ => exact inRange_of_lenV rfl
  | fc _ _ _ => exact inRange_of_lenV rfl

/-- A well-formed header leaves values in range. -/
theorem inRange_exec {i : Instr} {s : State} (hwf : i.wf = true) (hS : s.req.S ≤ 64) :
    LeavesOnly Pdu.InRange (exec i s) := by
  cases i with
  | sfShort len => exact inRange_execSfShort (bne_iff_ne.1 hwf) s
  | sfEsc len => exact inRange_execSfEsc len hS
  | ffShort hi lo => exact inRange_execFfShort hi lo hS
  | ffEsc len => exact inRange_execFfEsc len hS
  | cf n => exact leavesOnly_respond s (inRange_of_lenV rfl)
  | fc flag bs st => exact fun t h => (answer_exec _ s t h).inRange_of_fc
  | invalidType47 _ => exact inRange_raise none .invalidFrameType s
  | invalidType8F _ => exact inRange_raise none .invalidFrameType s

theorem inRange_step {s t : State} (h : step s = .next t) : t.pdu.InRange := by
  have hadm := admitted_of_step_eq_next h
  rw [step_of_admitted hadm] at h
  exact inRange_exec (wf_instrOf hadm.1) hadm.2 t h

/-! The slice. -/

/-- The slice of an answer begins after byte 0 and runs to the end of the payload (R55). -/
theorem Answer.slice_to_end {S : Nat} {c : Option FrameType} {p : Pdu} (h : Answer S c p) (hr : p.InRange)
    (hS : 1 ≤ S ∧ S ≤ 64) (hoffV : p.offV = true) : 1 ≤ p.off.toNat ∧ p.off.toNat + p.dlen.toNat = S := by
  cases h with
  | @error c e _ => cases c <;> cases hoffV
  | sf hL => rw [sfRecord_off_toNat hS.2, sfRecord_dlen_toNat hL hS.2]; omega
  | @ff off L hoff h7 =>
    obtain ⟨-, h2⟩ := hr.2 rfl rfl
    rw [ffRecord_off_toNat L hoff hS.2] at h2 ⊢
    rw [ffRecord_dlen_toNat off L hS.2]
    omega
  | cf n =>
    have hdlen : (BitVec.ofNat 7 (S - 1)).toNat = S - 1 := Nat.mod_eq_of_lt (by omega)
    exact ⟨Nat.le_refl 1, (congrArg (1 + ·) hdlen).trans (Nat.add_sub_of_le hS.1)⟩
  | fc _ _ _ => cases hoffV

/-- Settles O32: the slice is inside the payload, so its bytes can be read. -/
theorem sliceRunsToTheEndOfThePayload : Obligations.SliceRunsToTheEndOfThePayload := by
  intro s t h hoffV
  have hadm := admitted_of_step_eq_next h
  obtain ⟨h1, hend⟩ := (answer_step h).slice_to_end (inRange_step h) hadm hoffV
  exact ⟨h1, hend, readBytes_of_le hend.le (hend.trans_le hadm.2)⟩

/-! The error record. -/

theorem errorRecord_err (c : Option FrameType) (e : PduError) : (errorRecord c e).err = e.code := by
  cases c <;> rfl

theorem errorRecord_ftypeV (c : Option FrameType) (e : PduError) : (errorRecord c e).ftypeV = c.isSome := by
  cases c <;> rfl

theorem code_bounds (e : PduError) : 1 ≤ e.code.toNat ∧ e.code.toNat ≤ 6 := by
  cases e <;> decide

theorem code_eq_invalidFrameType_iff (e : PduError) :
    e.code = PduError.code .invalidFrameType ↔ e = .invalidFrameType := by
  cases e <;> decide

theorem errorRecord_legalError {c : Option FrameType} {e : PduError} (he : c = none ↔ e = .invalidFrameType) :
    (errorRecord c e).LegalError := by
  refine ⟨?_, ?_, ?_, ?_, errorRecord_specificUnset c e⟩
  · rw [errorRecord_err]; exact (code_bounds e).1
  · rw [errorRecord_err]; exact (code_bounds e).2
  · rw [errorRecord_err, errorRecord_ftypeV, code_eq_invalidFrameType_iff, ← he, Option.isSome_eq_false_iff,
      Option.isNone_iff_eq_none]
  · intro h
    cases c with
    | none => rfl
    | some c => cases h

/-- An error record has the code of its error, a success record code 0. -/
theorem Answer.err_le {S : Nat} {c : Option FrameType} {p : Pdu} (h : Answer S c p) : p.err.toNat ≤ 6 := by
  cases h with
  | @error c e _ => rw [errorRecord_err]; exact (code_bounds e).2
  | sf _ => exact Nat.zero_le 6
  | ff _ _ => exact Nat.zero_le 6
  | cf _ => exact Nat.zero_le 6
  | fc _ _ _ => exact Nat.zero_le 6

/-- Settles O31: every meaning, and so every step, leaves an answer. -/
theorem reservedErrorCodeNeverProduced : Obligations.ReservedErrorCodeNeverProduced :=
  ⟨fun _ _ h => (answer_step h).err_le, fun i s t h => (answer_exec i s t h).err_le⟩

/-- Settles O28: the only answer with a code other than OK's is the error record, whose type is absent for InvalidFrameType
alone. -/
theorem failedDecodeLeavesSentinels : Obligations.FailedDecodeLeavesSentinels := by
  intro s t h herr
  have hanswer := answer_step h
  generalize hc : classify (s.req.payload.read 0) = c at hanswer
  generalize t.pdu = p at hanswer herr
  cases hanswer with
  | @error _ e he =>
    rw [errorRecord_err, ne_eq, code_eq_invalidFrameType_iff, ← he]
    refine ⟨errorRecord_specificUnset c e, ?_, fun hne => ?_⟩
    · rintro rfl
      exact ⟨rfl, rfl⟩
    · obtain ⟨c', rfl⟩ := Option.ne_none_iff_exists'.1 hne
      exact ⟨rfl, code_of_classify hc⟩
  | sf _ => exact absurd rfl herr
  | ff _ _ => exact absurd rfl herr
  | cf _ => exact absurd rfl herr
  | fc _ _ _ => exact absurd rfl herr

/-- A successful answer has the type it answers for and the valid bits of that type (R27). -/
theorem Answer.valid_bits {S : Nat} {c : Option FrameType} {p : Pdu} (h : Answer S c p) (hok : p.err = okCode) :
    ∃ c', c = some c' ∧ p.ftypeV = true ∧ p.ftype = c'.code ∧ (p.lenV = true ↔ c'.code.toNat ≤ 1) ∧
      (p.offV = true ↔ c'.code.toNat ≤ 2) ∧ (p.seqV = true ↔ c'.code.toNat = 2) ∧
      (p.fcV = true ↔ c'.code.toNat = 3) := by
  cases h with
  | @error _ e _ => exact absurd ((errorRecord_err c e).symm.trans hok) (errorCode_ne_ok e)
  | sf _ => exact ⟨.sf, rfl, rfl, rfl, by simp [sfRecord, FrameType.code]⟩
  | ff _ _ => exact ⟨.ff, rfl, rfl, rfl, by simp [ffRecord, FrameType.code]⟩
  | cf _ => exact ⟨.cf, rfl, rfl, rfl, by simp [FrameType.code]⟩
  | fc _ _ _ => exact ⟨.fc, rfl, rfl, rfl, by simp [FrameType.code]⟩

/-- Settles O29: the class of byte 0 is the type that the record answers for, and its code is the type nibble. -/
theorem successfulTypeIsTheTypeNibble : Obligations.SuccessfulTypeIsTheTypeNibble := by
  intro s t h hok
  obtain ⟨c, hc, htypeV, htype, hbits⟩ := (answer_step h).valid_bits hok
  rw [code_of_classify hc] at hbits
  exact ⟨htypeV, htype ▸ code_of_classify hc, hbits⟩

/-! The invariant. -/

/-- An answer in range is one of the records of R27 or R203. -/
theorem Answer.legal {S : Nat} {c : Option FrameType} {p : Pdu} (h : Answer S c p) (hr : p.InRange)
    (hS : 1 ≤ S ∧ S ≤ 64) : p.Legal := by
  have hslice : p.offV = true → 1 ≤ p.off.toNat ∧ p.off.toNat + p.dlen.toNat ≤ Config.MAX_PAYLOAD := fun hoffV =>
    have ⟨h1, hend⟩ := h.slice_to_end hr hS hoffV
    ⟨h1, hend.trans_le hS.2⟩
  cases h with
  | error he => exact .inl (errorRecord_legalError he)
  | sf hL =>
    obtain ⟨h1, h62⟩ := hr.1 rfl rfl
    have hdlen := (sfRecord_dlen_toNat hL hS.2).trans (sfRecord_len_toNat hL hS.2).symm
    exact .inr ⟨rfl, rfl, .inl ⟨rfl, rfl, h1, h62, rfl, hdlen, rfl, rfl, rfl, rfl, rfl, rfl⟩, hslice⟩
  | ff _ _ =>
    obtain ⟨h7, h2⟩ := hr.2 rfl rfl
    exact .inr ⟨rfl, rfl, .inr (.inl ⟨rfl, rfl, h7, rfl, h2, rfl, rfl, rfl, rfl, rfl, rfl⟩), hslice⟩
  | cf _ => exact .inr ⟨rfl, rfl, .inr (.inr (.inl ⟨rfl, rfl, rfl, rfl, rfl, rfl, rfl, rfl, rfl, rfl⟩)), hslice⟩
  | fc _ hflag hus =>
    have hflag' := (Nat.mod_le _ (2 ^ 2)).trans hflag
    have hus' := (Nat.mod_le _ (2 ^ 17)).trans hus
    exact .inr ⟨rfl, rfl, .inr (.inr (.inr ⟨rfl, rfl, rfl, rfl, rfl, rfl, rfl, rfl, rfl, hflag', hus'⟩)), hslice⟩

/-- Settles O2: the reset payload lists nothing, and the record is unset. -/
theorem resetMeetsInvariant : Obligations.ResetMeetsInvariant :=
  ⟨rfl, fun _ => rfl, fun h => by cases h⟩

/-- Settles O3: a step leaves the request as it was (O38), and an answer in range. -/
theorem stepKeepsInvariant : Obligations.StepKeepsInvariant := by
  rintro s t ⟨hwf, -⟩ h
  obtain ⟨hreq, -, hframe⟩ := requestIsNeverWritten.2 s t h
  have hvalid : t.pduValid = true := by rw [hframe]
  have hlegal : t.pdu.Legal := (answer_step h).legal (inRange_step h) (admitted_of_step_eq_next h)
  exact ⟨hreq ▸ hwf, fun hno => absurd (hvalid.symm.trans hno) (by decide), fun _ => hlegal⟩

/-! Every admitted request is answered: the operands that a meaning takes are there. -/

/-- The outcome is a response to the request of `s`. -/
def Responds (s : State) (o : Result) : Prop :=
  ∃ p, o = respond p s

theorem responds_respond (p : Pdu) (s : State) : Responds s (respond p s) :=
  ⟨p, rfl⟩

theorem responds_raise (c : Option FrameType) (e : PduError) (s : State) : Responds s (raise c e s) :=
  ⟨errorRecord c e, raise_eq_respond c e s⟩

theorem responds_ite {s : State} {c : Prop} [Decidable c] {x y : Result} (hx : c → Responds s x)
    (hy : ¬c → Responds s y) : Responds s (if c then x else y) := by
  by_cases hc : c
  · rw [if_pos hc]
    exact hx hc
  · rw [if_neg hc]
    exact hy hc

theorem responds_withOperand {α : Type} {s : State} {o : Option α} {k : α → Result} (ho : o.isSome = true)
    (hk : ∀ v, Responds s (k v)) : Responds s (withOperand o k) := by
  obtain ⟨v, rfl⟩ := Option.isSome_iff_exists.1 ho
  exact hk v

/-- A header has every operand whose byte a payload of `S` bytes holds. -/
def HoldsOperands (S : Nat) : Instr → Prop
  | .sfEsc len => 2 ≤ S → len.isSome = true
  | .ffShort _ lo => 2 ≤ S → lo.isSome = true
  | .ffEsc len => 6 ≤ S → len.isSome = true
  | .fc _ bs st => 3 ≤ S → bs.isSome = true ∧ st.isSome = true
  | .sfShort _ | .cf _ | .invalidType47 _ | .invalidType8F _ => True

theorem holdsOperands_instrOf (r : Request) : HoldsOperands r.S (instrOf r) := by
  rcases hc : classify (r.payload.read 0) with _ | c
  · simp only [instrOf, hc]
    split <;> trivial
  · cases c with
    | sf =>
      simp only [instrOf, hc]
      split
      · exact fun h2 => by rw [if_pos h2]; rfl
      · trivial
    | ff =>
      simp only [instrOf, hc]
      split
      · exact fun h6 => by rw [if_pos h6]; rfl
      · exact fun h2 => by rw [if_pos h2]; rfl
    | cf => simp only [instrOf, hc]; trivial
    | fc =>
      simp only [instrOf, hc]
      exact fun h3 => by rw [if_pos h3, if_pos (by omega)]; exact ⟨rfl, rfl⟩

theorem responds_ffFinish (adj base L : Nat) (s : State) : Responds s (ffFinish adj base L s) :=
  ⟨_, ffFinish_eq_respond adj base L s⟩

/-- A meaning with its operands in place responds: in the order of each definition's checks. -/
theorem responds_exec {i : Instr} {s : State} (h : HoldsOperands s.req.S i) : Responds s (exec i s) := by
  cases i with
  | sfShort len =>
    rw [exec, execSfShort_eq]
    exact responds_ite (fun _ => responds_raise _ _ s) fun _ => responds_respond _ s
  | sfEsc len =>
    rcases Nat.lt_or_ge s.req.S 2 with hS | hS
    · rw [exec, execSfEsc_of_lt len hS]
      exact responds_raise _ _ s
    · rw [exec, execSfEsc_of_le len hS]
      exact responds_withOperand (h hS) fun _ => responds_ite (fun _ => responds_raise _ _ s) fun _ => responds_respond _ s
  | ffShort hi lo =>
    exact responds_ite (fun _ => responds_raise _ _ s) fun hS =>
      responds_withOperand (h (Nat.not_lt.1 hS)) fun _ => responds_ffFinish _ _ _ s
  | ffEsc len =>
    exact responds_ite (fun _ => responds_raise _ _ s) fun _ => responds_ite (fun _ => responds_raise _ _ s) fun hS =>
      responds_withOperand (h (Nat.not_lt.1 hS)) fun _ => responds_ffFinish _ _ _ s
  | cf n => exact responds_respond _ s
  | fc flag bs st =>
    refine responds_ite (fun _ => responds_raise _ _ s) fun hS => responds_ite (fun _ => responds_raise _ _ s) fun _ => ?_
    obtain ⟨hbs, hst⟩ := h (not_not.1 hS).ge
    refine responds_withOperand hbs fun b => responds_withOperand hst fun v => ?_
    cases stMicros v with
    | none => exact responds_raise _ _ s
    | some us => exact responds_respond _ s
  | invalidType47 _ => exact responds_raise none .invalidFrameType s
  | invalidType8F _ => exact responds_raise none .invalidFrameType s

theorem responds_step {s : State} (h : s.req.Admitted) : Responds s (step s) := by
  rw [step_of_admitted h]
  exact responds_exec (holdsOperands_instrOf s.req)

/-- Settles O33: an admitted request is responded to. -/
theorem admittedRequestsAreAnswered : Obligations.AdmittedRequestsAreAnswered := by
  intro s hadm
  obtain ⟨p, hp⟩ := responds_step hadm
  exact ⟨_, hp.trans (respond_of_admitted hadm p), rfl⟩

/-- Settles O35: an admitted request is responded to, and every other one refused. -/
theorem noStepFaults : Obligations.NoStepFaults := by
  intro s f
  by_cases hadm : s.req.Admitted
  · obtain ⟨p, hp⟩ := responds_step hadm
    rw [hp]
    exact respond_ne_fault p s f
  · simp [step_of_not_admitted hadm]

theorem admitted_of_exec_eq_next {i : Instr} {s t : State} (h : exec i s = .next t) : s.req.Admitted := by
  obtain ⟨p, hp⟩ | hfault := endsAlike_exec s.req i
  · exact (respond_eq_next.1 ((hp s rfl).symm.trans h)).1
  · cases (hfault s rfl).symm.trans h

/-- Settles O34: a meaning that answers has an admitted request. -/
theorem sizesOutOfContractAreRefused : Obligations.SizesOutOfContractAreRefused := by
  intro s hS
  have hnot : ¬s.req.Admitted := by
    rintro ⟨h1, h64⟩
    exact hS.elim (by omega) h64.not_gt
  exact ⟨step_of_not_admitted hnot, fun i t h => hnot (admitted_of_exec_eq_next h)⟩

/-- Settles O36: both sides of S, which is at most 64. -/
theorem readsAtOrAboveTheSizeFault : Obligations.ReadsAtOrAboveTheSizeFault := by
  rintro r i ⟨-, h64⟩
  exact ⟨fun h => readByte_of_lt h (h.trans_le h64), fun h => if_neg fun hi => hi.1.not_ge h⟩

/-- Settles O37: each size check passes, and the next operand is absent. -/
theorem absentOperandsFault : Obligations.AbsentOperandsFault := by
  intro s
  refine ⟨fun h2 => ?_, fun hi h2 => ?_, fun h6 => ?_, fun flag bs st hS hflag habsent => ?_⟩
  · exact if_neg h2.not_gt
  · exact if_neg h2.not_gt
  · exact (if_neg (show ¬s.req.S < 2 by omega)).trans (if_neg h6.not_gt)
  · refine (if_neg (not_not.2 hS)).trans ((if_neg hflag.not_gt).trans ?_)
    obtain rfl | rfl := habsent
    · rfl
    · cases bs <;> rfl

/-- Settles O4: the bytes decode to the instruction of the request. -/
theorem stepRunsDecodedHeader : Obligations.StepRunsDecodedHeader := by
  intro s i rest hadm h
  obtain ⟨rest', h'⟩ := decode_payload s.req hadm.1
  rw [step_of_admitted hadm, eq_fst_of_decode_eq h' h]

/-- Settles O44: the request is the same, so the record is (O39), and the rest of `t` is the frame (O38). -/
theorem resetDoesNotChangeTheNextResponse : Obligations.ResetDoesNotChangeTheNextResponse := by
  intro s t h
  obtain ⟨-, -, hframe⟩ := requestIsNeverWritten.2 s t h
  rw [recordDependsOnTheRequestAlone s s.assertReset t rfl h, hframe]
  rfl

/-- Settles O1: the fields as reset writes them. -/
theorem resetLeavesNoResponse : Obligations.ResetLeavesNoResponse :=
  ⟨rfl, rfl, rfl, fun _ => ⟨rfl, rfl, rfl⟩⟩

/-- Settles O11: both rows raise InvalidFrameType without a type. -/
theorem invalidTypeRowsAnswer : Obligations.InvalidTypeRowsAnswer :=
  fun _ _ _ hadm => ⟨respond_of_admitted hadm _, respond_of_admitted hadm _⟩

theorem readers_of_not_answered {s : State} (h : s.answered = false) :
    s.readLen = none ∧ s.readSlice = none ∧ s.readSeq = none ∧ s.readFlow = none := by
  simp [State.readLen, State.readSlice, State.readSeq, State.readFlow, h]

theorem answered_iff {s : State} : s.answered = true ↔ s.pduValid = true ∧ s.pdu.err = okCode := by
  simp [State.answered]

/-- Settles O30: the type reader asks for the response and the valid bit, every other reader for an OK response first. -/
theorem readersGiveValidFieldsOnly : Obligations.ReadersGiveValidFieldsOnly := by
  intro s
  refine ⟨fun hnone => ⟨?_, ?_⟩, fun hvalid => ?_, fun herr => ?_, fun hvalid hok => ?_⟩
  · simp [State.readType, hnone]
  · exact readers_of_not_answered (by simp [State.answered, hnone])
  · simp +contextual [State.readType, hvalid]
  · exact readers_of_not_answered (by simp [State.answered, herr])
  · have hanswered := answered_iff.2 ⟨hvalid, hok⟩
    simp +contextual [State.readLen, State.readSlice, State.readSeq, State.readFlow, hanswered]

/-! A meaning reads `ext` and S and no other part of the request (R22, R108). -/

/-- The outcome `o`, with its record at `u`. -/
def transferTo (u : State) : Result → Result
  | .next t => .next { u with pdu := t.pdu, pduValid := true }
  | .fault f => .fault f
  | .refused x => .refused x

theorem transferTo_respond {s u : State} (hS : u.req.S = s.req.S) (p : Pdu) :
    transferTo u (respond p s) = respond p u := by
  have hadm : u.req.Admitted ↔ s.req.Admitted := by rw [Request.Admitted, Request.Admitted, hS]
  by_cases h : s.req.Admitted
  · rw [respond_of_admitted h, respond_of_admitted (hadm.2 h), transferTo]
  · rw [respond_of_not_admitted h, respond_of_not_admitted (mt hadm.1 h), transferTo]

theorem transferTo_raise {s u : State} (hS : u.req.S = s.req.S) (c : Option FrameType) (e : PduError) :
    transferTo u (raise c e s) = raise c e u :=
  transferTo_respond hS _

theorem transferTo_ite (u : State) (c : Prop) [Decidable c] (x y : Result) :
    transferTo u (if c then x else y) = if c then transferTo u x else transferTo u y :=
  apply_ite _ c x y

theorem transferTo_withOperand {α : Type} (u : State) (o : Option α) (k : α → Result) :
    transferTo u (withOperand o k) = withOperand o fun v => transferTo u (k v) := by
  cases o <;> rfl

/-- CF does not read `ext` (R160). -/
theorem transferTo_exec_cf {s u : State} (hS : u.req.S = s.req.S) (n : Nibble) :
    transferTo u (exec (.cf n) s) = exec (.cf n) u := by
  rw [exec_cf, exec_cf, transferTo_respond hS, hS]

theorem transferTo_ffFinish {s u : State} (hS : u.req.S = s.req.S) (hext : u.req.ext = s.req.ext) (adj base L : Nat) :
    transferTo u (ffFinish adj base L s) = ffFinish adj base L u := by
  rw [ffFinish_eq_respond, ffFinish_eq_respond, transferTo_respond hS, hS, hext]

theorem transferTo_execFc {s u : State} (hS : u.req.S = s.req.S) (flag : Nibble) (bs st : Option Byte) :
    transferTo u (execFc flag bs st s) = execFc flag bs st u := by
  refine (transferTo_ite u _ _ _).trans (ite_congr (by rw [hS]) (fun _ => transferTo_raise hS _ _) fun _ => ?_)
  refine (transferTo_ite u _ _ _).trans (ite_congr rfl (fun _ => transferTo_raise hS _ _) fun _ => ?_)
  rw [transferTo_withOperand]
  refine congrArg (withOperand bs) (funext fun b => (transferTo_withOperand u _ _).trans ?_)
  refine congrArg (withOperand st) (funext fun v => ?_)
  cases stMicros v with
  | none => exact transferTo_raise hS _ _
  | some us => exact transferTo_respond hS _

/-- The ending of a meaning is the same for requests that agree on `ext` and S. -/
theorem transferTo_exec {s u : State} (hS : u.req.S = s.req.S) (hext : u.req.ext = s.req.ext) (i : Instr) :
    transferTo u (exec i s) = exec i u := by
  cases i with
  | sfShort len =>
    simp only [exec, execSfShort, hS, hext, transferTo_ite, transferTo_raise hS, transferTo_respond hS]
  | sfEsc len =>
    simp only [exec, execSfEsc, hS, hext, transferTo_ite, transferTo_raise hS, transferTo_respond hS, transferTo_withOperand]
  | ffShort hi lo =>
    simp only [exec, execFfShort, ffShortWith, hS, transferTo_ite, transferTo_raise hS, transferTo_withOperand,
      transferTo_ffFinish hS hext]
  | ffEsc len =>
    simp only [exec, execFfEsc, ffEscWith, hS, transferTo_ite, transferTo_raise hS, transferTo_withOperand,
      transferTo_ffFinish hS hext]
  | cf n => exact transferTo_exec_cf hS n
  | fc flag bs st => exact transferTo_execFc hS flag bs st
  | invalidType47 _ => exact transferTo_raise hS none .invalidFrameType
  | invalidType8F _ => exact transferTo_raise hS none .invalidFrameType

/-- The instruction of a request is read from the bytes below S. -/
theorem instrOf_congr {r q : Request} (h1 : 1 ≤ r.S) (hS : r.S = q.S)
    (hread : ∀ k, k < r.S → r.payload.read k = q.payload.read k) : instrOf r = instrOf q := by
  obtain ⟨_, hr⟩ := decode_payload r h1
  obtain ⟨_, hq⟩ := decode_payload q (hS ▸ h1)
  have hbytes : (List.range (min r.S 6)).map r.payload.read = (List.range (min q.S 6)).map q.payload.read := by
    rw [← hS]
    exact List.map_congr_left fun k hk => hread k ((List.mem_range.1 hk).trans_le (Nat.min_le_left _ _))
  rw [hbytes] at hr
  exact eq_fst_of_decode_eq hq hr

/-- Settles O41: the header bytes are below S, so the instruction is the same, and it reads `ext` and S alone. -/
theorem unreadRequestFieldsDoNotMatter : Obligations.UnreadRequestFieldsDoNotMatter := by
  intro s u t hext hS hread h
  have hadm := admitted_of_step_eq_next h
  have hadm' : u.req.Admitted := by rwa [Request.Admitted, ← hS]
  rw [step_of_admitted hadm, instrOf_congr hadm.1 hS hread] at h
  rw [step_of_admitted hadm', ← transferTo_exec hS.symm hext.symm, h, transferTo]

theorem instrOf_of_cf {r : Request} (h : classify (r.payload.read 0) = some .cf) :
    instrOf r = .cf (nib (r.payload.read 0)).2 := by
  simp only [instrOf, h]

/-- Settles O23: byte 0 is the whole header of both forms; CF does not read `ext` either. -/
theorem headerOfOneByteReadsNoOther : Obligations.HeaderOfOneByteReadsNoOther := by
  intro s u t hS hread h
  have hadm := admitted_of_step_eq_next h
  have hadm' : u.req.Admitted := by rwa [Request.Admitted, ← hS]
  rw [step_of_admitted hadm] at h
  rw [step_of_admitted hadm']
  constructor
  · intro htype
    have hcf : classify (s.req.payload.read 0) = some .cf := classify_congr (c := 0x20) htype
    rw [instrOf_of_cf hcf] at h
    rw [instrOf_of_cf (hread ▸ hcf), ← hread, ← transferTo_exec_cf hS.symm, h, transferTo]
  · intro h1 h15 hext
    have hsf : classify (s.req.payload.read 0) = some .sf :=
      classify_congr (c := 0x00) (Nat.div_eq_of_lt (Nat.lt_succ_of_le h15))
    have hn : (nib (s.req.payload.read 0)).2 ≠ 0 := fun h0 => by
      have := (nib_snd_eq_zero_iff _).1 h0
      omega
    rw [instrOf_of_sf hsf, if_neg hn] at h
    rw [instrOf_of_sf (hread ▸ hsf), ← hread, if_neg hn, ← transferTo_exec hS.symm hext.symm, h, transferTo]

/-- Settles O43: by induction on the requests; each record depends on its request alone (O39). -/
theorem requestsAreServedInOrder : Obligations.RequestsAreServedInOrder := by
  intro rs
  induction rs with
  | nil => exact fun s _ => ⟨s, [], rfl, rfl, fun k r h => by simp at h, fun p h => by simp at h⟩
  | cons r rs ih =>
    intro s hadm
    obtain ⟨hr, hrs⟩ := List.forall_mem_cons.1 hadm
    obtain ⟨t, ht, hvalid⟩ := admittedRequestsAreAnswered (s.present r) hr
    obtain ⟨u, ps, hserve, hlen, hrecord, hlast⟩ := ih t hrs
    refine ⟨u, t.pdu :: ps, ?_, congrArg (· + 1) hlen, fun k q hq => ?_, fun p hp => ?_⟩
    · simp only [serve, ht, hserve]
    · cases k with
      | zero =>
        obtain rfl : r = q := by simpa using hq
        exact ⟨_, recordDependsOnTheRequestAlone (s.present r) (State.reset.present r) t rfl ht, rfl⟩
      | succ k => exact hrecord k q hq
    · cases ps with
      | nil =>
        obtain rfl : rs = [] := List.eq_nil_of_length_eq_zero hlen.symm
        cases hserve
        cases hp
        exact ⟨rfl, hvalid⟩
      | cons q ps => exact hlast p (by simpa using hp)

/-! First Frame: the two forms reach the same tail (R140), which has three endings. -/

theorem ffShortWith_of_lt {s : State} (adj : Nat) (hi : Nibble) (lo : Option Byte) (hS : s.req.S < 2) :
    ffShortWith adj hi lo s = raise (some .ff) .truncatedHeader s :=
  if_pos hS

theorem ffShortWith_of_le {s : State} (adj : Nat) (hi : Nibble) (b1 : Byte) (hS : 2 ≤ s.req.S) :
    ffShortWith adj hi (some b1) s = ffFinish adj 2 (hi.toNat * 256 + b1.toNat) s := by
  rw [ffShortWith, if_neg hS.not_gt, withOperand_some, f12_toNat]

theorem ffEscWith_of_lt {s : State} (adj : Nat) (len : Option Word32) (hS : s.req.S < 6) :
    ffEscWith adj len s = raise (some .ff) .truncatedHeader s := by
  rw [ffEscWith, if_pos hS, ite_self]

theorem ffEscWith_of_le {s : State} (adj : Nat) (w : Word32) (hS : 6 ≤ s.req.S) :
    ffEscWith adj (some w) s = ffFinish adj 6 w.toNat s := by
  have h2 : ¬s.req.S < 2 := by omega
  rw [ffEscWith, if_neg h2, if_neg hS.not_gt, withOperand_some]

theorem ffFinish_of_offset_gt {adj base : Nat} {s : State} (L : Nat) (hoff : s.req.S < ffOffset adj base s.req.ext) :
    ffFinish adj base L s = raise (some .ff) .truncatedHeader s :=
  if_pos hoff

theorem ffFinish_of_lt_minLen {adj base L : Nat} {s : State} (hoff : ffOffset adj base s.req.ext ≤ s.req.S)
    (hL : L < minLen s.req.S s.req.ext) : ffFinish adj base L s = raise (some .ff) .lengthTooSmall s :=
  (if_neg hoff.not_gt).trans (if_pos hL)

theorem ffFinish_of_minLen_le {adj base L : Nat} {s : State} (hoff : ffOffset adj base s.req.ext ≤ s.req.S)
    (hL : minLen s.req.S s.req.ext ≤ L) :
    ffFinish adj base L s = respond (ffRecord s.req.S (ffOffset adj base s.req.ext) L) s :=
  (if_neg hoff.not_gt).trans (if_neg hL.not_gt)

/-- Settles O18: the form's own size check and the tail's offset check raise alike; past both, the tail's endings. -/
theorem ffShortResponse : Obligations.FfShortResponse := by
  intro hi b1 s hadm L off
  refine ⟨fun hoff hL => ?_, fun hoff lo hlo => ?_, fun hoff hL => ?_⟩
  · rw [exec, execFfShort, ffShortWith_of_le _ _ _ (by omega), ffFinish_of_minLen_le hoff hL, respond_of_admitted hadm]
    rfl
  · rw [exec, execFfShort]
    rcases Nat.lt_or_ge s.req.S 2 with h2 | h2
    · exact (ffShortWith_of_lt _ hi lo h2).trans (respond_of_admitted hadm _)
    · rw [hlo h2, ffShortWith_of_le _ _ _ h2]
      exact (ffFinish_of_offset_gt _ hoff).trans (respond_of_admitted hadm _)
  · rw [exec, execFfShort, ffShortWith_of_le _ _ _ (by omega)]
    exact (ffFinish_of_lt_minLen hoff hL).trans (respond_of_admitted hadm _)

/-- Settles O19: as O18, with six header bytes and the length as the word that it is. -/
theorem ffEscResponse : Obligations.FfEscResponse := by
  intro w s hadm off
  refine ⟨fun hoff hL => ?_, fun hoff len hlen => ?_, fun hoff hL => ?_⟩
  · have hlen : BitVec.ofNat 32 w.toNat = w := by simp
    rw [exec, execFfEsc, ffEscWith_of_le _ _ (by omega), ffFinish_of_minLen_le hoff hL, respond_of_admitted hadm, ffRecord,
      Pdu.setLen, hlen]
    rfl
  · rw [exec, execFfEsc]
    rcases Nat.lt_or_ge s.req.S 6 with h6 | h6
    · exact (ffEscWith_of_lt _ len h6).trans (respond_of_admitted hadm _)
    · rw [hlen h6, ffEscWith_of_le _ _ h6]
      exact (ffFinish_of_offset_gt _ hoff).trans (respond_of_admitted hadm _)
  · rw [exec, execFfEsc, ffEscWith_of_le _ _ (by omega)]
    exact (ffFinish_of_lt_minLen hoff hL).trans (respond_of_admitted hadm _)

/-- The bound of R141 as R147 writes it. -/
theorem minLen_eq (S : Nat) (ext : Bool) :
    minLen S ext = if S ≤ 8 then (if ext = true then 7 else 8) else (if ext = true then S - 2 else S - 1) := by
  by_cases hS : S ≤ 8
  · rw [if_pos hS, minLen_of_le ext hS]
  · rw [if_neg hS, minLen_of_lt ext (Nat.not_le.1 hS)]

/-- With the offset inside the payload the bound alone decides. -/
theorem ffFinish_ok_iff {adj base L : Nat} {s : State} (hadm : s.req.Admitted)
    (hoff : ffOffset adj base s.req.ext ≤ s.req.S) :
    ∃ t, ffFinish adj base L s = .next t ∧ (t.pdu.err = okCode ↔ minLen s.req.S s.req.ext ≤ L) := by
  rcases Nat.lt_or_ge L (minLen s.req.S s.req.ext) with hL | hL
  · refine ⟨_, (ffFinish_of_lt_minLen hoff hL).trans (respond_of_admitted hadm _), ?_⟩
    exact iff_of_false (errorCode_ne_ok .lengthTooSmall) hL.not_ge
  · exact ⟨_, (ffFinish_of_minLen_le hoff hL).trans (respond_of_admitted hadm _), iff_of_true rfl hL⟩

/-- With the adjustment 0 the offset is the header size. -/
theorem ffOffset_zero (base : Nat) (ext : Bool) : ffOffset FF_EXT_OFFSET_ADJ base ext = base := by
  rw [ffOffset, ite_self, Nat.add_zero]

/-- Settles O20: with the adjustment 0 the header size is the offset, and the bound of R141 decides. -/
theorem ffAcceptedLengths : Obligations.FfAcceptedLengths := by
  intro s hadm
  rw [← minLen_eq]
  refine ⟨fun hi b1 h2 => ?_, fun w h6 => ?_⟩
  · rw [exec, execFfShort, ffShortWith_of_le _ _ _ h2]
    exact ffFinish_ok_iff hadm ((ffOffset_zero _ _).trans_le h2)
  · rw [exec, execFfEsc, ffEscWith_of_le _ _ h6]
    exact ffFinish_ok_iff hadm ((ffOffset_zero _ _).trans_le h6)

/-- The slice that the First Frame tail answers. -/
theorem ffFinish_slice {adj base L : Nat} {s t : State} (h : ffFinish adj base L s = .next t) (hok : t.pdu.err = okCode) :
    t.pdu.off.toNat = ffOffset adj base s.req.ext ∧ t.pdu.off.toNat + t.pdu.dlen.toNat = s.req.S := by
  rcases Nat.lt_or_ge s.req.S (ffOffset adj base s.req.ext) with hoff | hoff
  · rw [ffFinish_of_offset_gt L hoff] at h
    exact absurd ((err_of_raise_eq_next h).symm.trans hok) (errorCode_ne_ok _)
  rcases Nat.lt_or_ge L (minLen s.req.S s.req.ext) with hL | hL
  · rw [ffFinish_of_lt_minLen hoff hL] at h
    exact absurd ((err_of_raise_eq_next h).symm.trans hok) (errorCode_ne_ok _)
  · rw [ffFinish_of_minLen_le hoff hL] at h
    obtain ⟨hadm, rfl⟩ := respond_eq_next.1 h
    have hoff' := ffRecord_off_toNat L hoff hadm.2
    have hdlen := ffRecord_dlen_toNat (ffOffset adj base s.req.ext) L hadm.2
    exact ⟨hoff', by rw [hoff', hdlen, Nat.add_sub_of_le hoff]⟩

theorem ffOffset_eq_ite (adj base : Nat) (ext : Bool) : ffOffset adj base ext = if ext = true then base + adj else base :=
  (apply_ite (base + ·) _ adj 0)

/-- Settles O21: an OK comes from the tail alone, whose slice begins at the offset. -/
theorem ffOffsetFollowsTheAdjustment : Obligations.FfOffsetFollowsTheAdjustment := by
  intro adj hi b1 w s t _
  rw [← ffOffset_eq_ite, ← ffOffset_eq_ite]
  refine ⟨fun h hok => ?_, fun h hok => ?_⟩
  · rcases Nat.lt_or_ge s.req.S 2 with h2 | h2
    · rw [ffShortWith_of_lt _ _ _ h2] at h
      exact absurd ((err_of_raise_eq_next h).symm.trans hok) (errorCode_ne_ok _)
    · rw [ffShortWith_of_le _ _ _ h2] at h
      exact ffFinish_slice h hok
  · rcases Nat.lt_or_ge s.req.S 6 with h6 | h6
    · rw [ffEscWith_of_lt _ _ h6] at h
      exact absurd ((err_of_raise_eq_next h).symm.trans hok) (errorCode_ne_ok _)
    · rw [ffEscWith_of_le _ _ h6] at h
      exact ffFinish_slice h hok

/-! Flow Control: the endings that the separation time selects (R173). -/

theorem stMicros_of_reserved {st : Byte} (h : (0x80 ≤ st.toNat ∧ st.toNat ≤ 0xF0) ∨ 0xFA ≤ st.toNat) :
    stMicros st = none := by
  have hms : ¬st.toNat ≤ 0x7F := by omega
  have hus : ¬(0xF1 ≤ st.toNat ∧ st.toNat ≤ 0xF9) := by omega
  exact (if_neg hms).trans (if_neg hus)

theorem exec_fc_of_size_ne {s : State} (flag : Nibble) (bs st : Option Byte) (hS : s.req.S ≠ 3) :
    exec (.fc flag bs st) s = raise (some .fc) .invalidLength s :=
  if_pos hS

theorem exec_fc_of_stMicros_some {flag : Nibble} {st : Byte} {us : Nat} {s : State} (bs : Byte) (hS : s.req.S = 3)
    (hflag : flag.toNat ≤ 2) (hus : stMicros st = some us) :
    exec (.fc flag (some bs) (some st)) s = respond ((okRecord .fc).setFlow flag.toNat bs.toNat us) s := by
  rw [exec_fc_of_flag_le bs st hS hflag, hus, Option.elim_some]

theorem exec_fc_of_stMicros_none {flag : Nibble} {st : Byte} {s : State} (bs : Byte) (hS : s.req.S = 3)
    (hflag : flag.toNat ≤ 2) (hus : stMicros st = none) :
    exec (.fc flag (some bs) (some st)) s = raise (some .fc) .invalidSeparationTime s := by
  rw [exec_fc_of_flag_le bs st hS hflag, hus, Option.elim_none]

/-- The FC record with its block size as the byte that it is. -/
theorem setFlow_okRecord_fc (flag us : Nat) (bs : Byte) :
    (okRecord .fc).setFlow flag bs.toNat us =
      { Pdu.unset with
        ftypeV := true, ftype := 3, fcV := true, fcFlag := BitVec.ofNat 2 flag, bs := bs, stUs := BitVec.ofNat 17 us } := by
  rw [Pdu.setFlow, BitVec.ofNat_toNat, BitVec.setWidth_eq]
  rfl

/-- Settles O24: one ending per check, in the order of the checks. -/
theorem fcResponse : Obligations.FcResponse := by
  intro flag s hadm
  refine ⟨fun bs st hS => ?_, fun bs st hS hflag => ?_, fun bs st hS hflag hst => ?_, fun bs st hS hflag hlo hhi => ?_,
    fun bs st hS hflag hst => ?_⟩
  · exact (exec_fc_of_size_ne flag bs st hS).trans (respond_of_admitted hadm _)
  · exact (exec_fc_of_flag_gt bs st hS hflag).trans (respond_of_admitted hadm _)
  · rw [exec_fc_of_stMicros_some bs hS hflag (stMicros_of_ms hst), respond_of_admitted hadm, setFlow_okRecord_fc]
  · rw [exec_fc_of_stMicros_some bs hS hflag (stMicros_of_us hlo hhi), respond_of_admitted hadm, setFlow_okRecord_fc]
  · exact (exec_fc_of_stMicros_none bs hS hflag (stMicros_of_reserved hst)).trans (respond_of_admitted hadm _)

/-- Settles O27: each byte's separation time is computed; the ending follows from it. -/
theorem separationTimeBoundaries : Obligations.SeparationTimeBoundaries := by
  intro bs s hS
  have hadm := admitted_of_size_three hS
  have hflag : (0 : Nibble).toNat ≤ 2 := by decide
  have hok {st : Byte} {us : Nat} (hus : stMicros st = some us) : ∃ t, exec (.fc 0 (some bs) (some st)) s = .next t ∧
      t.pdu.err = okCode ∧ t.pdu.stUs = BitVec.ofNat 17 us :=
    ⟨_, (exec_fc_of_stMicros_some bs hS hflag hus).trans (respond_of_admitted hadm _), rfl, rfl⟩
  have hbad {st : Byte} (hus : stMicros st = none) : ∃ t, exec (.fc 0 (some bs) (some st)) s = .next t ∧
      t.pdu.err = PduError.invalidSeparationTime.code :=
    ⟨_, (exec_fc_of_stMicros_none bs hS hflag hus).trans (respond_of_admitted hadm _), rfl⟩
  exact ⟨hok rfl, hbad rfl, hok rfl, hok rfl, hbad rfl⟩

/-! The spec's pseudocode: on an admitted request every read of it succeeds and its endings are those of the meanings, so each
parser agrees with its meanings branch by branch. -/

theorem pseudoByte_of_lt {s : State} {i : Nat} (hadm : s.req.Admitted) (hi : i < s.req.S) (k : Nat → Result) :
    pseudoByte s i k = k (s.req.payload.read i).toNat := by
  rw [pseudoByte, readByte_of_lt hi (hi.trans_le hadm.2)]

theorem raise_eq_pseudoFail {s : State} (hadm : s.req.Admitted) (c : FrameType) (e : PduError) :
    raise (some c) e s = pseudoFail s c.code.toNat e.code.toNat := by
  rw [raise_eq_respond, respond_of_admitted hadm, pseudoFail, BitVec.ofNat_toNat, BitVec.ofNat_toNat, BitVec.setWidth_eq,
    BitVec.setWidth_eq]
  rfl

theorem exec_sfShort_eq_pseudoSf {s : State} (hadm : s.req.Admitted) {n : Nibble} (hn : n ≠ 0) :
    exec (.sfShort n) s = pseudoSf s n.toNat := by
  have h0 : n.toNat ≠ 0 := fun h => hn (BitVec.eq_of_toNat_eq h)
  have hfail := raise_eq_pseudoFail hadm .sf .invalidLength
  refine Eq.trans ?_ (if_pos h0).symm
  exact ite_congr rfl (fun _ => hfail) fun _ => ite_congr rfl (fun _ => hfail) fun _ =>
    ite_congr rfl (fun _ => hfail) fun _ => respond_of_admitted hadm _

theorem exec_sfEsc_eq_pseudoSf {s : State} (hadm : s.req.Admitted) :
    exec (.sfEsc (if 2 ≤ s.req.S then some (s.req.payload.read 1) else none)) s = pseudoSf s 0 := by
  have hfail := raise_eq_pseudoFail hadm .sf .invalidLength
  rw [pseudoSf, if_neg (not_not.2 rfl)]
  refine ite_congr rfl (fun _ => raise_eq_pseudoFail hadm .sf .truncatedHeader) fun h2 => ?_
  have h2' : 2 ≤ s.req.S := Nat.not_lt.1 h2
  rw [if_pos h2', withOperand_some, pseudoByte_of_lt hadm h2']
  exact ite_congr rfl (fun _ => hfail) fun _ => ite_congr (by rw [Bool.not_eq_true]) (fun _ => hfail) fun _ =>
    ite_congr rfl (fun _ => hfail) fun _ => respond_of_admitted hadm _

theorem exec_cf_eq_pseudoCf {s : State} (hadm : s.req.Admitted) (n : Nibble) : exec (.cf n) s = pseudoCf s n.toNat := by
  rw [exec_cf, respond_of_admitted hadm, setSlice_setSeq_okRecord_cf, pseudoCf, pseudoDone, BitVec.ofNat_toNat,
    BitVec.setWidth_eq]

theorem ffFinish_eq_pseudoFfEnd {s : State} (hadm : s.req.Admitted) (base L : Nat) :
    ffFinish FF_EXT_OFFSET_ADJ base L s = pseudoFfEnd s base L :=
  ite_congr rfl (fun _ => raise_eq_pseudoFail hadm .ff .truncatedHeader) fun _ =>
    ite_congr rfl (fun _ => raise_eq_pseudoFail hadm .ff .lengthTooSmall) fun _ => respond_of_admitted hadm _

theorem instrOf_of_ff {r : Request} (h : classify (r.payload.read 0) = some .ff) :
    instrOf r =
      if 2 ≤ r.S ∧ f12 (nib (r.payload.read 0)).2 (r.payload.read 1) = 0 then
        .ffEsc (if 6 ≤ r.S then
          some (word32 (r.payload.read 2) (r.payload.read 3) (r.payload.read 4) (r.payload.read 5)) else none)
      else .ffShort (nib (r.payload.read 0)).2 (if 2 ≤ r.S then some (r.payload.read 1) else none) := by
  simp only [instrOf, h]

theorem instrOf_of_fc {r : Request} (h : classify (r.payload.read 0) = some .fc) :
    instrOf r = .fc (nib (r.payload.read 0)).2 (if 2 ≤ r.S then some (r.payload.read 1) else none)
      (if 3 ≤ r.S then some (r.payload.read 2) else none) := by
  simp only [instrOf, h]

theorem exec_instrOf_eq_pseudoFf {s : State} (hadm : s.req.Admitted) (hff : classify (s.req.payload.read 0) = some .ff) :
    exec (instrOf s.req) s = pseudoFf s (nib (s.req.payload.read 0)).2.toNat := by
  rw [instrOf_of_ff hff, pseudoFf]
  have htrunc := raise_eq_pseudoFail hadm .ff .truncatedHeader
  rcases Nat.lt_or_ge s.req.S 2 with h2 | h2
  · rw [if_neg (fun h => h.1.not_gt h2), if_pos h2]
    exact (ffShortWith_of_lt _ _ _ h2).trans htrunc
  rw [if_neg h2.not_gt, if_pos h2, pseudoByte_of_lt hadm h2, ← f12_toNat]
  by_cases hf : f12 (nib (s.req.payload.read 0)).2 (s.req.payload.read 1) = 0
  · have hzero : ¬(f12 (nib (s.req.payload.read 0)).2 (s.req.payload.read 1)).toNat ≠ 0 :=
      not_not.2 (congrArg BitVec.toNat hf)
    rw [if_pos ⟨h2, hf⟩, if_neg hzero]
    rcases Nat.lt_or_ge s.req.S 6 with h6 | h6
    · rw [if_pos h6]
      exact (ffEscWith_of_lt _ _ h6).trans htrunc
    · rw [if_neg h6.not_gt, if_pos h6, pseudoByte_of_lt hadm (by omega), pseudoByte_of_lt hadm (by omega),
        pseudoByte_of_lt hadm (by omega), pseudoByte_of_lt hadm (by omega), ← word32_toNat]
      exact (ffEscWith_of_le _ _ h6).trans (ffFinish_eq_pseudoFfEnd hadm _ _)
  · have hzero : (f12 (nib (s.req.payload.read 0)).2 (s.req.payload.read 1)).toNat ≠ 0 :=
      fun h => hf (BitVec.eq_of_toNat_eq h)
    rw [if_neg (fun h => hf h.2), if_pos hzero, exec, execFfShort, ffShortWith_of_le _ _ _ h2,
      ffFinish_eq_pseudoFfEnd hadm, f12_toNat]

theorem exec_instrOf_eq_pseudoFc {s : State} (hadm : s.req.Admitted) (hfc : classify (s.req.payload.read 0) = some .fc) :
    exec (instrOf s.req) s = pseudoFc s (nib (s.req.payload.read 0)).2.toNat := by
  rw [instrOf_of_fc hfc]
  refine ite_congr rfl (fun _ => raise_eq_pseudoFail hadm .fc .invalidLength) fun hS =>
    ite_congr rfl (fun _ => raise_eq_pseudoFail hadm .fc .invalidFlowControlFlag) fun _ => ?_
  have h3 : s.req.S = 3 := not_not.1 hS
  rw [if_pos (by omega), if_pos h3.ge, withOperand_some, withOperand_some, pseudoByte_of_lt hadm (by omega),
    pseudoByte_of_lt hadm (by omega)]
  generalize s.req.payload.read 2 = st
  by_cases hms : st.toNat ≤ 0x7F
  · rw [stMicros_of_ms hms, if_pos hms]
    exact respond_of_admitted hadm _
  by_cases hus : 0xF1 ≤ st.toNat ∧ st.toNat ≤ 0xF9
  · rw [stMicros_of_us hus.1 hus.2, if_neg hms, if_pos hus]
    exact respond_of_admitted hadm _
  · rw [stMicros_of_reserved (by omega), if_neg hms, if_neg hus]
    exact raise_eq_pseudoFail hadm .fc .invalidSeparationTime

theorem pseudoDecode_of_admitted {s : State} (hadm : s.req.Admitted) {b : Byte} (hb : s.req.payload.read 0 = b) :
    pseudoDecode s =
      if 4 ≤ b.toNat / 16 then pseudoDone s { Pdu.unset with err := 1 }
      else if b.toNat / 16 = 0 then pseudoSf s (b.toNat % 16)
      else if b.toNat / 16 = 1 then pseudoFf s (b.toNat % 16)
      else if b.toNat / 16 = 2 then pseudoCf s (b.toNat % 16)
      else pseudoFc s (b.toNat % 16) := by
  subst hb
  have hin : ¬(s.req.S = 0 ∨ s.req.S > Config.MAX_PAYLOAD) := not_or.2 ⟨Nat.ne_of_gt hadm.1, hadm.2.not_gt⟩
  exact (if_neg hin).trans (pseudoByte_of_lt hadm hadm.1 _)

theorem pseudoDecode_of_not_admitted {s : State} (h : ¬s.req.Admitted) : pseudoDecode s = .refused .sizeOutOfContract := by
  have hout : s.req.S = 0 ∨ s.req.S > Config.MAX_PAYLOAD := by
    rw [Request.Admitted] at h
    omega
  exact if_pos hout

theorem four_le_of_classify_eq_none {b : Byte} (h : classify b = none) : 4 ≤ b.toNat / 16 := by
  revert b
  decide

/-- Settles O42: both select by the type nibble, one parser each; out of contract both refuse. -/
theorem stepIsThePseudocode : Obligations.StepIsThePseudocode := by
  intro s
  by_cases hadm : s.req.Admitted
  · rw [pseudoDecode_of_admitted hadm rfl]
    rcases hc : classify (s.req.payload.read 0) with _ | c
    · rw [step_of_unclassified hadm hc, if_pos (four_le_of_classify_eq_none hc)]
      exact respond_of_admitted hadm _
    · rw [step_of_admitted hadm, ← code_of_classify hc, ← nib_snd_toNat]
      cases c with
      | sf =>
        rw [instrOf_of_sf hc]
        by_cases hn : (nib (s.req.payload.read 0)).2 = 0
        · rw [if_pos hn, hn]
          exact exec_sfEsc_eq_pseudoSf hadm
        · rw [if_neg hn]
          exact exec_sfShort_eq_pseudoSf hadm hn
      | ff => exact exec_instrOf_eq_pseudoFf hadm hc
      | cf =>
        rw [instrOf_of_cf hc]
        exact exec_cf_eq_pseudoCf hadm _
      | fc => exact exec_instrOf_eq_pseudoFc hadm hc
  · rw [step_of_not_admitted hadm, pseudoDecode_of_not_admitted hadm]

/-! Requests written as bytes. -/

/-- Bytes laid from index 0 on are the payload's first bytes. -/
theorem read_writeBytes_zero {m : Memory} {bytes : List Byte} {k : Nat} {b : Byte} (hm : m.wf = true)
    (hk : bytes[k]? = some b) (h64 : k < 64) : (m.writeBytes 0 bytes).read k = b := by
  have hread := Memory.read_writeBytes (i := 0) hm hk ((Nat.zero_add k).trans_lt h64)
  rwa [Nat.zero_add] at hread

theorem ofBytes_S {bytes : List Byte} (ext : Bool) (h : bytes.length ≤ 64) :
    (Request.ofBytes ext bytes).S = bytes.length := by
  have hmin : min bytes.length 127 = bytes.length := Nat.min_eq_left (h.trans (by decide))
  have hsize : bytes.length % 2 ^ 7 = bytes.length := Nat.mod_eq_of_lt (by omega)
  rw [Request.S, Request.ofBytes, hmin, BitVec.toNat_ofNat, hsize]

theorem ofBytes_admitted {bytes : List Byte} (ext : Bool) (h1 : 1 ≤ bytes.length) (h64 : bytes.length ≤ 64) :
    (Request.ofBytes ext bytes).Admitted := by
  rw [Request.Admitted, ofBytes_S ext h64]
  exact ⟨h1, h64⟩

theorem ofBytes_read {bytes : List Byte} {i : Nat} {b : Byte} (ext : Bool) (hi : bytes[i]? = some b)
    (h64 : bytes.length ≤ 64) : (Request.ofBytes ext bytes).payload.read i = b := by
  obtain ⟨hlt, -⟩ := List.getElem?_eq_some_iff.1 hi
  exact read_writeBytes_zero rfl hi (hlt.trans_le h64)

/-- Settles O46: laying bytes keeps the canonical form, and each is read back where it was laid. -/
theorem presentedBytesAreThePayload : Obligations.PresentedBytesAreThePayload := by
  intro ext bytes h1 h64
  refine ⟨ofBytes_admitted ext h1 h64, ofBytes_S ext h64, Memory.wf_writeBytes rfl, fun i b hi => ?_⟩
  obtain ⟨hlt, -⟩ := List.getElem?_eq_some_iff.1 hi
  rw [readByte_of_lt (by rwa [ofBytes_S ext h64]) (hlt.trans_le h64), ofBytes_read ext hi h64]

/-! The Single Frame round trip. -/

/-- The step on a byte 0 that is an SF short header. -/
theorem step_of_sfShort {s : State} {n : Nibble} (hadm : s.req.Admitted) (hb0 : s.req.payload.read 0 = 0x0#4 ++ n)
    (hn : n ≠ 0) : step s = exec (.sfShort n) s := by
  have hsf : classify (s.req.payload.read 0) = some .sf := by rw [hb0, classify_sf]
  rw [step_of_admitted hadm, instrOf_of_sf hsf, hb0, nib_append, if_neg hn]

/-- SF_SHORT with a length that standard addressing allows. -/
theorem exec_sfShort_of_fits {s : State} {n : Nibble} (hext : s.req.ext = false) (h7 : n.toNat ≤ 7)
    (hS : n.toNat < s.req.S) : exec (.sfShort n) s = respond (sfRecord s.req.S n.toNat) s := by
  have hext' : ¬(s.req.ext = true ∧ n.toNat = 7) := fun h => absurd (hext.symm.trans h.1) (by decide)
  rw [exec, execSfShort_eq, if_neg (not_or.2 ⟨h7.not_gt, not_or.2 ⟨Nat.not_lt.2 hS, hext'⟩⟩)]

/-- The record of a frame with one header byte and no padding. -/
theorem sfRecord_succ (L : Nat) :
    sfRecord (L + 1) L =
      { Pdu.unset with
        ftypeV := true, ftype := 0, lenV := true, len := BitVec.ofNat 32 L
        offV := true, off := 1, dlen := BitVec.ofNat 7 L } := by
  rw [sfRecord, Nat.add_sub_cancel_left]
  rfl

/-- Settles O16: the frame's byte 0 is the header of its length, and the bytes after it are the trailing bytes. -/
theorem sfRoundTrip : Obligations.SfRoundTrip := by
  intro d s h1 h7
  have h64 : (frameSf d).length ≤ 64 := (Nat.succ_le_succ h7).trans (by decide)
  have hS : (Request.ofBytes false (frameSf d)).S = d.length + 1 := ofBytes_S false h64
  have hadm : (Request.ofBytes false (frameSf d)).Admitted := ofBytes_admitted false (Nat.le_add_left 1 _) h64
  have hb0 : (Request.ofBytes false (frameSf d)).payload.read 0 = 0x0#4 ++ BitVec.ofNat 4 d.length :=
    ofBytes_read false rfl h64
  have hlen : (BitVec.ofNat 4 d.length).toNat = d.length := Nat.mod_eq_of_lt (by omega)
  have hn : BitVec.ofNat 4 d.length ≠ 0 := ofNat_ne_zero (by omega) (by omega)
  have hstep : step (s.present (Request.ofBytes false (frameSf d))) =
      .next { req := Request.ofBytes false (frameSf d), pdu := sfRecord (d.length + 1) d.length, pduValid := true } := by
    rw [step_of_sfShort hadm hb0 hn, exec_sfShort_of_fits rfl (hlen.trans_le h7) (by rw [hlen]; exact hS.symm.le),
      respond_of_admitted hadm, State.present_req, hS, hlen]
  refine ⟨_, hstep, sfRecord_succ d.length, ?_⟩
  have hslice := dataSlice_sfRecord (r := Request.ofBytes false (frameSf d)) (L := d.length) hS.symm.le hadm.2
  rw [hS] at hslice
  refine hslice.trans (congrArg Except.ok (List.ext_getElem (by simp) fun k _ hk => ?_))
  have hbyte : (frameSf d)[1 + k]? = some d[k] := by
    rw [Nat.add_comm]
    exact List.getElem?_eq_getElem hk
  simpa using ofBytes_read false hbyte h64

/-! Words laid by withFetchWord (log 4). -/

theorem map_read_writeBytes {m : Memory} {bytes : List Byte} {n : Nat} (hm : m.wf = true) (hn : n ≤ bytes.length)
    (h64 : n ≤ 64) : (List.range n).map (m.writeBytes 0 bytes).read = bytes.take n := by
  apply List.ext_getElem
  · simp [hn]
  · intro k hk _
    have hkn : k < n := by simpa using hk
    have hbyte : bytes[k]? = some bytes[k] := List.getElem?_eq_getElem (hkn.trans_le hn)
    simpa using read_writeBytes_zero hm hbyte (hkn.trans_le h64)

/-- Flow Control is decoded from its first three bytes. -/
theorem decode_of_fc {b0 : Byte} (h : classify b0 = some .fc) (b1 b2 : Byte) (d : List Byte) :
    decode (b0 :: b1 :: b2 :: d) = .ok (.fc (nib b0).2 (some b1) (some b2), d) := by
  rw [decode, h]
  rfl

theorem withHeader_S (r : Request) (isFc : Bool) (bytes : List Byte) :
    (r.withHeader isFc bytes).S = if isFc = true then 3 else 8 := by
  cases isFc <;> rfl

theorem withHeader_admitted (r : Request) (isFc : Bool) (bytes : List Byte) : (r.withHeader isFc bytes).Admitted := by
  rw [Request.Admitted, withHeader_S]
  cases isFc <;> decide

/-- The header bytes of a request with six bytes laid: three of them for Flow Control, else all six. -/
theorem headerBytes_withHeader {r : Request} {isFc : Bool} {bytes : List Byte} (hwf : r.payload.wf = true)
    (hlen : bytes.length = 6) :
    (List.range (min (r.withHeader isFc bytes).S 6)).map (r.withHeader isFc bytes).payload.read =
      bytes.take (if isFc = true then 3 else 6) := by
  have hn : min (r.withHeader isFc bytes).S 6 = if isFc = true then 3 else 6 := by cases isFc <;> rfl
  have h6 : (if isFc = true then 3 else 6) ≤ 6 := by cases isFc <;> decide
  rw [hn]
  exact map_read_writeBytes hwf (h6.trans hlen.ge) (h6.trans (by decide))

/-- What six bytes decode to is decoded also from the part of them that is laid in a frame of their type. -/
theorem decode_take {bytes rest : List Byte} {i : Instr} (hlen : bytes.length = 6) (h : decode bytes = .ok (i, rest)) :
    ∃ rest', decode (bytes.take (if decide (bytes.head?.bind classify = some .fc) = true then 3 else 6)) =
      .ok (i, rest') := by
  by_cases hfc : bytes.head?.bind classify = some .fc
  · rw [if_pos (decide_eq_true hfc)]
    match bytes with
    | b0 :: b1 :: b2 :: d =>
      have hi : i = .fc (nib b0).2 (some b1) (some b2) := eq_fst_of_decode_eq (decode_of_fc hfc b1 b2 d) h
      exact ⟨[], hi ▸ decode_of_fc hfc b1 b2 []⟩
  · rw [if_neg (mt of_decide_eq_true hfc), List.take_of_length_le hlen.le]
    exact ⟨rest, h⟩

/-- Settles O47: the laid bytes are the bytes of the next fetch, and the part of them that it covers decodes alike. -/
theorem laidWordIsTheNextInstruction : Obligations.LaidWordIsTheNextInstruction := by
  intro s nbits w
  have hlen : (tableBytes nbits w).length = 6 := rfl
  obtain ⟨i, rest, h⟩ : ∃ i rest, decode (tableBytes nbits w) = .ok (i, rest) := exists_decode_cons _ _
  refine ⟨i, ?_, withHeader_admitted _ _ _, rfl, rfl, fun hwf => ?_⟩
  · rw [decodeTableWord, h]
  · obtain ⟨rest', h'⟩ := decode_take hlen h
    rw [← headerBytes_withHeader hwf hlen] at h'
    exact stepRunsDecodedHeader _ i rest' (withHeader_admitted _ _ _) h'

end Sys2Proof.Machine
end
